-- ==== Sys2Proof/Word.lean ====
section
/-! DEFINITION. The word types of the QS-I CPU: widths fixed by 10_state.md R10, 20_memory.md R40 and
30_encoding.md R70 to R73. -/

namespace Sys2Proof

/-- A 32-bit quantity: a general register, HI, LO, the pc, a CP0 register, an address, an instruction word
(10_state.md R10, R14; 30_encoding.md R70). -/
abbrev Word := BitVec 32

/-- A byte of memory (20_memory.md R40). -/
abbrev Byte := BitVec 8

/-- A 5-bit register number: the fields rs, rt, rd of 30_encoding.md R71 and R72 (R77: unsigned 0 to 31). -/
abbrev Reg := BitVec 5

/-- The 5-bit shift amount field of 30_encoding.md R71 and R77. -/
abbrev Shamt := BitVec 5

/-- The 16-bit immediate field of 30_encoding.md R72. -/
abbrev Imm16 := BitVec 16

/-- The 26-bit target field of 30_encoding.md R73. -/
abbrev Target26 := BitVec 26

/-- One bit for each of the 20 external interrupt lines (60_exceptions.md R255). -/
abbrev Lines := BitVec 20

end Sys2Proof
end

