-- ==== Sys2Proof/Machine/Flags.lean ====
section
/-! DEFINITION. There are no flags (10_state.md R18). What stands in their place: the overflow test of add, sub and addi
(41_alu_r.md R137), and the 0 or 1 that comparisons write. -/

namespace Sys2Proof.Machine

/-- The exact 33-bit signed sum (41_alu_r.md R121). -/
def sum33 (a b : Word) : BitVec 33 := a.signExtend 33 + b.signExtend 33

/-- The exact 33-bit signed difference (41_alu_r.md R123). -/
def diff33 (a b : Word) : BitVec 33 := a.signExtend 33 - b.signExtend 33

/-- Integer overflow of an exact 33-bit result: bit 32 differs from bit 31 (R137; GK8, PRESUMED, log 26). -/
def overflows (r : BitVec 33) : Bool := r.getLsbD 32 != r.getLsbD 31

/-- The 32-bit 1 or 0 of a comparison (41_alu_r.md R125). -/
def boolWord (b : Bool) : Word := if b then 1#32 else 0#32

end Sys2Proof.Machine
end

