-- ==== Sys2Proof/Config.lean ====
section
/-! DEFINITION. The parameters of 00_scope.md R5 that the spec leaves to the implementation, as plain data, and
the free values of the spec (R7: a free draw of the step), as constants without a body. -/

namespace Sys2Proof

/-- The byte order parameter ENDIAN (20_memory.md R43, 00_scope.md R5). -/
inductive Endian where
  | little
  | big
deriving DecidableEq, Repr

/-- A place in the three-bit cell 31:29 of Status or Cause: where IE_BIT or BR_BIT may lie
(10_state.md R20, R23). -/
inductive CellBit where
  | b31
  | b30
  | b29
deriving DecidableEq, Repr

/-- What kind of bytes a region of MEM_MAP holds (00_scope.md R5: which addresses are read-only, which are
devices). -/
inductive RegionKind where
  | ram
  | rom
  | device
deriving DecidableEq, Repr

/-- One region of MEM_MAP: `size` bytes from `base`. `fetch` and `data` say which accesses it exists for, so that
a fetch-only or data-only region can be written (92_eei_decisions.md D6). DESIGN CHOICE (log 7), safe: the form of
MEM_MAP is the model's. -/
structure Region where
  base : Nat
  size : Nat
  kind : RegionKind
  fetch : Bool
  data : Bool
deriving DecidableEq, Repr

/-- A way for a run to end that 92_eei_decisions.md D35 names. -/
inductive RunEnd where
  /-- So many steps are done. -/
  | steps (n : Nat)
  /-- pc holds the address. -/
  | atPc (a : Word)
  /-- The instruction at pc jumps to itself: `beq $0, $0, -1`, or `j` to its own address. -/
  | selfLoop
deriving DecidableEq, Repr

/-- All the non-fixed parameters of 00_scope.md R5. They are configuration, not hardware state (10_state.md R31), and no
step changes them. -/
structure Config where
  /-- EXC_VECTOR, the exception entrance (20_memory.md R51). -/
  excVector : Word
  /-- HIST_INSTRS: whether sllv, srlv, srav, bgezal, bltzal are admitted (30_encoding.md R83, R90). -/
  histInstrs : Bool
  /-- ENDIAN (20_memory.md R43). -/
  endian : Endian
  /-- IE_BIT (10_state.md R20). -/
  ieBit : CellBit
  /-- BR_BIT (10_state.md R23). -/
  brBit : CellBit
  /-- EXC_INT (60_exceptions.md R251). -/
  excInt : BitVec 5
  /-- EXC_SYS (60_exceptions.md R251). -/
  excSys : BitVec 5
  /-- EXC_BP (60_exceptions.md R251). -/
  excBp : BitVec 5
  /-- EXC_OV (60_exceptions.md R251). -/
  excOv : BitVec 5
  /-- STRICT_DECODE: unused instruction fields must be zero (30_encoding.md R83, R84). -/
  strictDecode : Bool
  /-- MEM_MAP: which byte addresses exist, which are read-only, which are devices (20_memory.md R47). -/
  memMap : List Region
  /-- RESET_PC (70_reset_and_hazards.md R300). -/
  resetPc : Word
  /-- HALT: what ends a run, if anything does (D35). The claim about a run names it; no step depends on it. -/
  halt : Option RunEnd
  /-- TIMER: the clock tick timer, if the platform has one, as the code of its exception (60_exceptions.md R272,
  D32; log 38). -/
  timer : Option (BitVec 5)
deriving DecidableEq, Repr

/-- The n-th free 32-bit draw, `unspecified_32()` of 00_scope.md R7: no value of it can be proved. The free value
of log 24 (division) and log 19 (reserved bits read by mfc0). -/
opaque Config.freeWord : Nat → Word

/-- The n-th free bit: Cause.BR after eret (47_cp0_privileged.md R221), the free value of log 20, and at an interrupt or a
timer's signal whose pc lies in a device (60_exceptions.md R263), the free value of log 22. -/
opaque Config.freeBit : Nat → Bool

/-- The n-th free 5-bit code, `unspecified_5()`: Cause.EXC after eret (47_cp0_privileged.md R221). The free value
of log 20. -/
opaque Config.freeCode : Nat → BitVec 5

end Sys2Proof
end

