-- ==== Sys2Proof/Machine/Params.lean ====
section
/-! DEFINITION. The default value of each parameter of 00_scope.md R5, and for the parameters R5 leaves OPEN the value
the model names. -/

namespace Sys2Proof.Machine

/-- MEM_MAP, which 00_scope.md R5 leaves OPEN: plain memory at every one of the 2^32 addresses of 20_memory.md R40, for
fetch and data alike. DESIGN CHOICE (log 6), unsafe: a platform may have holes, read-only regions or devices. -/
def wholeSpaceMap : List Region :=
  [{ base := 0, size := 2 ^ 32, kind := .ram, fetch := true, data := true }]

/-- The parameters at their defaults in 00_scope.md R5. EXC_VECTOR: log 13, unsafe. HIST_INSTRS: log 9, safe. ENDIAN:
log 8, unsafe. IE_BIT and BR_BIT: log 11, unsafe. The codes: log 12, PRESUMED, unsafe. STRICT_DECODE: log 10, safe.
RESET_PC: log 2, unsafe. HALT: none given (log 41), safe. TIMER: absent (log 38), unsafe. -/
def defaultConfig : Config where
  excVector := 0x04000000#32
  histInstrs := false
  endian := .little
  ieBit := .b31
  brBit := .b31
  excInt := 0#5
  excSys := 8#5
  excBp := 9#5
  excOv := 12#5
  strictDecode := true
  memMap := wholeSpaceMap
  resetPc := 0x00000000#32
  halt := none
  timer := none

end Sys2Proof.Machine
end

