-- ==== Sys2Proof/Syntax.lean ====
section
/-! DEFINITION. The instructions: one constructor for each of the 57 rows of spec/opcode_table.json, in the table's
order, with the operands of 30_encoding.md R88 in the assembler's order. -/

namespace Sys2Proof

/-- An instruction with its operand fields, as decoding leaves it. Load, store and immediate operands are the raw
16-bit fields: 30_encoding.md R76 says how each instruction extends them. -/
inductive Instr where
  /-- lw rt, off(base). R101. -/
  | lw (rt : Reg) (off : Imm16) (base : Reg)
  /-- lb rt, off(base). R102. -/
  | lb (rt : Reg) (off : Imm16) (base : Reg)
  /-- lbu rt, off(base). R103. -/
  | lbu (rt : Reg) (off : Imm16) (base : Reg)
  /-- lh rt, off(base). R104. -/
  | lh (rt : Reg) (off : Imm16) (base : Reg)
  /-- lhu rt, off(base). R105. -/
  | lhu (rt : Reg) (off : Imm16) (base : Reg)
  /-- sw rt, off(base). R106. -/
  | sw (rt : Reg) (off : Imm16) (base : Reg)
  /-- sb rt, off(base). R107. -/
  | sb (rt : Reg) (off : Imm16) (base : Reg)
  /-- sh rt, off(base). R108. -/
  | sh (rt : Reg) (off : Imm16) (base : Reg)
  /-- add rd, rs, rt. R121. -/
  | add (rd rs rt : Reg)
  /-- addu rd, rs, rt. R122. -/
  | addu (rd rs rt : Reg)
  /-- sub rd, rs, rt. R123. -/
  | sub (rd rs rt : Reg)
  /-- subu rd, rs, rt. R124. -/
  | subu (rd rs rt : Reg)
  /-- slt rd, rs, rt. R125. -/
  | slt (rd rs rt : Reg)
  /-- sltu rd, rs, rt. R126. -/
  | sltu (rd rs rt : Reg)
  /-- and rd, rs, rt. R127. -/
  | and (rd rs rt : Reg)
  /-- or rd, rs, rt. R128. -/
  | or (rd rs rt : Reg)
  /-- xor rd, rs, rt. R129. -/
  | xor (rd rs rt : Reg)
  /-- nor rd, rs, rt. R130. -/
  | nor (rd rs rt : Reg)
  /-- sll rd, rt, sa. R131. -/
  | sll (rd rt : Reg) (sa : Shamt)
  /-- srl rd, rt, sa. R132. -/
  | srl (rd rt : Reg) (sa : Shamt)
  /-- sra rd, rt, sa. R133. -/
  | sra (rd rt : Reg) (sa : Shamt)
  /-- mult rs, rt. R151. -/
  | mult (rs rt : Reg)
  /-- multu rs, rt. R152. -/
  | multu (rs rt : Reg)
  /-- div rs, rt. R153. -/
  | div (rs rt : Reg)
  /-- divu rs, rt. R154. -/
  | divu (rs rt : Reg)
  /-- addi rt, rs, imm. R161. -/
  | addi (rt rs : Reg) (imm : Imm16)
  /-- addiu rt, rs, imm. R162. -/
  | addiu (rt rs : Reg) (imm : Imm16)
  /-- andi rt, rs, imm. R163. -/
  | andi (rt rs : Reg) (imm : Imm16)
  /-- ori rt, rs, imm. R164. -/
  | ori (rt rs : Reg) (imm : Imm16)
  /-- xori rt, rs, imm. R165. -/
  | xori (rt rs : Reg) (imm : Imm16)
  /-- lui rt, imm. R166. -/
  | lui (rt : Reg) (imm : Imm16)
  /-- slti rt, rs, imm. R167. -/
  | slti (rt rs : Reg) (imm : Imm16)
  /-- sltiu rt, rs, imm. R168. -/
  | sltiu (rt rs : Reg) (imm : Imm16)
  /-- beq rs, rt, off (words). R181. -/
  | beq (rs rt : Reg) (off : Imm16)
  /-- bne rs, rt, off (words). R182. -/
  | bne (rs rt : Reg) (off : Imm16)
  /-- blez rs, off (words). R183. -/
  | blez (rs : Reg) (off : Imm16)
  /-- bgtz rs, off (words). R184. -/
  | bgtz (rs : Reg) (off : Imm16)
  /-- bltz rs, off (words). R185. -/
  | bltz (rs : Reg) (off : Imm16)
  /-- bgez rs, off (words). R186. -/
  | bgez (rs : Reg) (off : Imm16)
  /-- j target. R201. -/
  | j (target : Target26)
  /-- jal target. R202. -/
  | jal (target : Target26)
  /-- jalr rd, rs. R203. -/
  | jalr (rd rs : Reg)
  /-- jr rs. R204. -/
  | jr (rs : Reg)
  /-- mfhi rd. R211. -/
  | mfhi (rd : Reg)
  /-- mflo rd. R212. -/
  | mflo (rd : Reg)
  /-- mthi rs. R213. -/
  | mthi (rs : Reg)
  /-- mtlo rs. R214. -/
  | mtlo (rs : Reg)
  /-- eret. R221. -/
  | eret
  /-- mfc0 rt, rd, sel: `rd` is a CP0 register number. R222, R89. -/
  | mfc0 (rt rd : Reg) (sel : BitVec 3)
  /-- mtc0 rt, rd, sel: `rd` is a CP0 register number. R223, R89. -/
  | mtc0 (rt rd : Reg) (sel : BitVec 3)
  /-- break (its name is a word of Lean's). R231. -/
  | brk
  /-- syscall. R232. -/
  | syscall
  /-- sllv rd, rt, rs; historical. R134. -/
  | sllv (rd rt rs : Reg)
  /-- srlv rd, rt, rs; historical. R135. -/
  | srlv (rd rt rs : Reg)
  /-- srav rd, rt, rs; historical. R136. -/
  | srav (rd rt rs : Reg)
  /-- bgezal rs, off (words); historical. R187. -/
  | bgezal (rs : Reg) (off : Imm16)
  /-- bltzal rs, off (words); historical. R188. -/
  | bltzal (rs : Reg) (off : Imm16)
deriving DecidableEq, Repr

/-- The assembler pseudo-instructions (49_pseudo.md R240): no word encodes one, and the assembler replaces each by
instructions. -/
inductive Pseudo where
  /-- la rdest, address. R241. -/
  | la (rdest : Reg) (address : Word)
  /-- move rdest, rsrc. R242. -/
  | move (rdest rsrc : Reg)
  /-- li rdest, imm. R243. -/
  | li (rdest : Reg) (imm : Word)
  /-- Clear a register; the source gives it no mnemonic. R244. -/
  | clear (r : Reg)
deriving DecidableEq, Repr

/-- The five instructions of the historical section, admitted only when HIST_INSTRS is true
(30_encoding.md R83, R90). -/
def Instr.isHist : Instr → Bool
  | .sllv .. | .srlv .. | .srav .. | .bgezal .. | .bltzal .. => true
  | _ => false

/-- The `sel` operand where the instruction has one (30_encoding.md R89). -/
def Instr.sel : Instr → BitVec 3
  | .mfc0 _ _ sel => sel
  | .mtc0 _ _ sel => sel
  | _ => 0#3

end Sys2Proof
end

