-- ==== Sys2Proof/WellFormed.lean ====
section
/-! DEFINITION. Which instructions a machine with given parameters has: the two checks that the operand types do not
already make (a register number, shift amount, immediate or target out of range cannot be written). -/

namespace Sys2Proof

/-- The historical check: sllv, srlv, srav, bgezal, bltzal only when HIST_INSTRS is true (30_encoding.md R83). -/
def Instr.histOk (c : Config) (i : Instr) : Bool :=
  !i.isHist || c.histInstrs

/-- The selector check: under STRICT_DECODE only `sel` = 0 is admitted (30_encoding.md R84, R89). -/
def Instr.selOk (c : Config) (i : Instr) : Bool :=
  !c.strictDecode || i.sel == 0#3

/-- A well-formed instruction of a machine with parameters `c`: exactly the instructions some word of which
decodes. -/
def Instr.wellFormed (c : Config) (i : Instr) : Bool :=
  i.histOk c && i.selOk c

end Sys2Proof
end

