-- ==== Sys2Proof/Decode.lean ====
section
/-! DEFINITION. The byte order, the decoder and the encoder, from the formats and opcode maps of 30_encoding.md, and
the mask and match rows of the spec's opcode table beside them. -/

namespace Sys2Proof

/-! Byte order: 20_memory.md R43. -/

/-- The low `n` bytes of `v`, least significant first. -/
def bytesLE : Nat → Word → List Byte
  | 0, _ => []
  | n + 1, v => v.setWidth 8 :: bytesLE n (v >>> 8)

/-- The word whose bytes, least significant first, are `bs`. -/
def wordLE : List Byte → Word
  | [] => 0#32
  | b :: bs => (wordLE bs <<< 8) ||| b.setWidth 32

/-- The low `n` bytes of `v` in the order they lie in memory, lowest address first (20_memory.md R43). Big-endian puts
the most significant byte first, which 95_test_vectors.md P2 shows and no rule says: DEDUCED (log 8), unsafe. -/
def bytesOfWord (e : Endian) (n : Nat) (v : Word) : List Byte :=
  match e with
  | .little => bytesLE n v
  | .big => (bytesLE n v).reverse

/-- The value of bytes read from memory, lowest address first, zero-extended to a word (20_memory.md R43). -/
def wordOfBytes (e : Endian) (bs : List Byte) : Word :=
  match e with
  | .little => wordLE bs
  | .big => wordLE bs.reverse

/-! Fields: 30_encoding.md R71 to R74. -/

/-- opcode, bits 31:26 (R74). -/
def opcodeField (ir : Word) : BitVec 6 := ir.extractLsb' 26 6

/-- rs, bits 25:21 (R74). -/
def rsField (ir : Word) : Reg := ir.extractLsb' 21 5

/-- rt, bits 20:16 (R74). -/
def rtField (ir : Word) : Reg := ir.extractLsb' 16 5

/-- rd, bits 15:11 (R74). -/
def rdField (ir : Word) : Reg := ir.extractLsb' 11 5

/-- shamt, bits 10:6 (R74). -/
def shamtField (ir : Word) : Shamt := ir.extractLsb' 6 5

/-- func, bits 5:0 (R74). -/
def funcField (ir : Word) : BitVec 6 := ir.extractLsb' 0 6

/-- imme, bits 15:0 (R74). -/
def immField (ir : Word) : Imm16 := ir.extractLsb' 0 16

/-- target, bits 25:0 (R74). -/
def targetField (ir : Word) : Target26 := ir.extractLsb' 0 26

/-- sel, bits 2:0 (R89, GK10: PRESUMED, log 18). -/
def selField (ir : Word) : BitVec 3 := ir.extractLsb' 0 3

/-! Decoding: 30_encoding.md R80 to R85. -/

/-- Why a word is no instruction of the machine. Each ends in the model fault UndefinedInstruction (R85). -/
inductive Reject where
  /-- No row of R80 to R82 has the word. -/
  | noRow
  /-- The word is one of the five historical instructions and HIST_INSTRS is false (R83). -/
  | historical
  /-- An unused field is not zero and STRICT_DECODE is true (R83, R84). -/
  | unusedField
  /-- Fewer than four bytes (R70: every instruction is 32 bits long). -/
  | truncated
deriving DecidableEq, Repr

/-- The STRICT_DECODE check: `zero` says that the unused fields of R84 are zero. -/
def ifUnusedZero (c : Config) (zero : Bool) (i : Instr) : Except Reject Instr :=
  if c.strictDecode && !zero then .error .unusedField else .ok i

/-- The HIST_INSTRS check of R83. -/
def ifHist (c : Config) (r : Except Reject Instr) : Except Reject Instr :=
  if c.histInstrs then r else .error .historical

/-- Opcode 0x00 selects by func (R81). The codes of sllv, srlv, srav are PRESUMED (R90, GK4; log 9), and mult's is
corrected to 0x18 (90_conflicts.md C1; log 31). -/
def decodeSpecial (c : Config) (ir : Word) : Except Reject Instr :=
  let func := funcField ir
  if func = 0x00#6 then ifUnusedZero c (rsField ir == 0#5) (.sll (rdField ir) (rtField ir) (shamtField ir))
  else if func = 0x02#6 then ifUnusedZero c (rsField ir == 0#5) (.srl (rdField ir) (rtField ir) (shamtField ir))
  else if func = 0x03#6 then ifUnusedZero c (rsField ir == 0#5) (.sra (rdField ir) (rtField ir) (shamtField ir))
  else if func = 0x04#6 then ifHist c <| ifUnusedZero c (shamtField ir == 0#5) (.sllv (rdField ir) (rtField ir) (rsField ir))
  else if func = 0x06#6 then ifHist c <| ifUnusedZero c (shamtField ir == 0#5) (.srlv (rdField ir) (rtField ir) (rsField ir))
  else if func = 0x07#6 then ifHist c <| ifUnusedZero c (shamtField ir == 0#5) (.srav (rdField ir) (rtField ir) (rsField ir))
  else if func = 0x08#6 then ifUnusedZero c (rtField ir == 0#5 && rdField ir == 0#5 && shamtField ir == 0#5) (.jr (rsField ir))
  else if func = 0x09#6 then ifUnusedZero c (rtField ir == 0#5 && shamtField ir == 0#5) (.jalr (rdField ir) (rsField ir))
  else if func = 0x0C#6 then ifUnusedZero c (ir.extractLsb' 6 20 == 0#20) (.syscall)
  else if func = 0x0D#6 then ifUnusedZero c (ir.extractLsb' 6 20 == 0#20) (.brk)
  else if func = 0x10#6 then ifUnusedZero c (rsField ir == 0#5 && rtField ir == 0#5 && shamtField ir == 0#5) (.mfhi (rdField ir))
  else if func = 0x11#6 then ifUnusedZero c (rtField ir == 0#5 && rdField ir == 0#5 && shamtField ir == 0#5) (.mthi (rsField ir))
  else if func = 0x12#6 then ifUnusedZero c (rsField ir == 0#5 && rtField ir == 0#5 && shamtField ir == 0#5) (.mflo (rdField ir))
  else if func = 0x13#6 then ifUnusedZero c (rtField ir == 0#5 && rdField ir == 0#5 && shamtField ir == 0#5) (.mtlo (rsField ir))
  else if func = 0x18#6 then ifUnusedZero c (rdField ir == 0#5 && shamtField ir == 0#5) (.mult (rsField ir) (rtField ir))
  else if func = 0x19#6 then ifUnusedZero c (rdField ir == 0#5 && shamtField ir == 0#5) (.multu (rsField ir) (rtField ir))
  else if func = 0x1A#6 then ifUnusedZero c (rdField ir == 0#5 && shamtField ir == 0#5) (.div (rsField ir) (rtField ir))
  else if func = 0x1B#6 then ifUnusedZero c (rdField ir == 0#5 && shamtField ir == 0#5) (.divu (rsField ir) (rtField ir))
  else if func = 0x20#6 then ifUnusedZero c (shamtField ir == 0#5) (.add (rdField ir) (rsField ir) (rtField ir))
  else if func = 0x21#6 then ifUnusedZero c (shamtField ir == 0#5) (.addu (rdField ir) (rsField ir) (rtField ir))
  else if func = 0x22#6 then ifUnusedZero c (shamtField ir == 0#5) (.sub (rdField ir) (rsField ir) (rtField ir))
  else if func = 0x23#6 then ifUnusedZero c (shamtField ir == 0#5) (.subu (rdField ir) (rsField ir) (rtField ir))
  else if func = 0x24#6 then ifUnusedZero c (shamtField ir == 0#5) (.and (rdField ir) (rsField ir) (rtField ir))
  else if func = 0x25#6 then ifUnusedZero c (shamtField ir == 0#5) (.or (rdField ir) (rsField ir) (rtField ir))
  else if func = 0x26#6 then ifUnusedZero c (shamtField ir == 0#5) (.xor (rdField ir) (rsField ir) (rtField ir))
  else if func = 0x27#6 then ifUnusedZero c (shamtField ir == 0#5) (.nor (rdField ir) (rsField ir) (rtField ir))
  else if func = 0x2A#6 then ifUnusedZero c (shamtField ir == 0#5) (.slt (rdField ir) (rsField ir) (rtField ir))
  else if func = 0x2B#6 then ifUnusedZero c (shamtField ir == 0#5) (.sltu (rdField ir) (rsField ir) (rtField ir))
  else .error .noRow

/-- Opcode 0x01 selects by rt (R82). The codes of bltzal and bgezal are PRESUMED (R90, GK4; log 9). -/
def decodeRegimm (c : Config) (ir : Word) : Except Reject Instr :=
  let sel := rtField ir
  if sel = 0x00#5 then .ok (.bltz (rsField ir) (immField ir))
  else if sel = 0x01#5 then .ok (.bgez (rsField ir) (immField ir))
  else if sel = 0x10#5 then ifHist c <| .ok (.bltzal (rsField ir) (immField ir))
  else if sel = 0x11#5 then ifHist c <| .ok (.bgezal (rsField ir) (immField ir))
  else .error .noRow

/-- Opcode 0x10 selects by bit 25, then by func or by rs (R82). Bits 10:0 of mfc0 and mtc0 are unused under
STRICT_DECODE; without it bits 2:0 are `sel` and bits 10:3 are ignored (R84, R222). -/
def decodeCop0 (c : Config) (ir : Word) : Except Reject Instr :=
  if ir.getLsbD 25 then
    if funcField ir = 0x18#6 then ifUnusedZero c (ir.extractLsb' 6 19 == 0#19) .eret else .error .noRow
  else if rsField ir = 0x00#5 then
    ifUnusedZero c (ir.extractLsb' 0 11 == 0#11) (.mfc0 (rtField ir) (rdField ir) (selField ir))
  else if rsField ir = 0x04#5 then
    ifUnusedZero c (ir.extractLsb' 0 11 == 0#11) (.mtc0 (rtField ir) (rdField ir) (selField ir))
  else .error .noRow

/-- The instruction of a word on a machine with parameters `c`, by the primary opcode map (R80), or the reason there
is none. -/
def decodeWord (c : Config) (ir : Word) : Except Reject Instr :=
  let op := opcodeField ir
  if op = 0x00#6 then decodeSpecial c ir
  else if op = 0x01#6 then decodeRegimm c ir
  else if op = 0x02#6 then .ok (.j (targetField ir))
  else if op = 0x03#6 then .ok (.jal (targetField ir))
  else if op = 0x04#6 then .ok (.beq (rsField ir) (rtField ir) (immField ir))
  else if op = 0x05#6 then .ok (.bne (rsField ir) (rtField ir) (immField ir))
  else if op = 0x06#6 then ifUnusedZero c (rtField ir == 0#5) (.blez (rsField ir) (immField ir))
  else if op = 0x07#6 then ifUnusedZero c (rtField ir == 0#5) (.bgtz (rsField ir) (immField ir))
  else if op = 0x08#6 then .ok (.addi (rtField ir) (rsField ir) (immField ir))
  else if op = 0x09#6 then .ok (.addiu (rtField ir) (rsField ir) (immField ir))
  else if op = 0x0A#6 then .ok (.slti (rtField ir) (rsField ir) (immField ir))
  else if op = 0x0B#6 then .ok (.sltiu (rtField ir) (rsField ir) (immField ir))
  else if op = 0x0C#6 then .ok (.andi (rtField ir) (rsField ir) (immField ir))
  else if op = 0x0D#6 then .ok (.ori (rtField ir) (rsField ir) (immField ir))
  else if op = 0x0E#6 then .ok (.xori (rtField ir) (rsField ir) (immField ir))
  else if op = 0x0F#6 then ifUnusedZero c (rsField ir == 0#5) (.lui (rtField ir) (immField ir))
  else if op = 0x10#6 then decodeCop0 c ir
  else if op = 0x20#6 then .ok (.lb (rtField ir) (immField ir) (rsField ir))
  else if op = 0x21#6 then .ok (.lh (rtField ir) (immField ir) (rsField ir))
  else if op = 0x23#6 then .ok (.lw (rtField ir) (immField ir) (rsField ir))
  else if op = 0x24#6 then .ok (.lbu (rtField ir) (immField ir) (rsField ir))
  else if op = 0x25#6 then .ok (.lhu (rtField ir) (immField ir) (rsField ir))
  else if op = 0x28#6 then .ok (.sb (rtField ir) (immField ir) (rsField ir))
  else if op = 0x29#6 then .ok (.sh (rtField ir) (immField ir) (rsField ir))
  else if op = 0x2B#6 then .ok (.sw (rtField ir) (immField ir) (rsField ir))
  else .error .noRow

/-- The instruction at the front of a list of bytes, lowest address first, and the bytes after it (R70, R49). -/
def decodeBytes (c : Config) : List Byte → Except Reject (Instr × List Byte)
  | b0 :: b1 :: b2 :: b3 :: rest =>
    (decodeWord c (wordOfBytes c.endian [b0, b1, b2, b3])).map fun i => (i, rest)
  | _ => .error .truncated

/-! Encoding: 30_encoding.md R71 to R73, R80 to R82, R90; unused fields zero (R84). -/

/-- An R-format word with opcode 0 (R71). -/
def rType (rs rt rd : Reg) (shamt : Shamt) (func : BitVec 6) : Word :=
  0#6 ++ rs ++ rt ++ rd ++ shamt ++ func

/-- An I-format word (R72). -/
def iType (op : BitVec 6) (rs rt : Reg) (imm : Imm16) : Word :=
  op ++ rs ++ rt ++ imm

/-- A J-format word (R73). -/
def jType (op : BitVec 6) (target : Target26) : Word :=
  op ++ target

/-- A word of mfc0 or mtc0 (R82, R89). -/
def cp0Type (rs rt rd : Reg) (sel : BitVec 3) : Word :=
  0x10#6 ++ rs ++ rt ++ rd ++ 0#8 ++ sel

/-- The word of an instruction. -/
def encode : Instr → Word
  | .lw rt off base => iType 0x23#6 base rt off
  | .lb rt off base => iType 0x20#6 base rt off
  | .lbu rt off base => iType 0x24#6 base rt off
  | .lh rt off base => iType 0x21#6 base rt off
  | .lhu rt off base => iType 0x25#6 base rt off
  | .sw rt off base => iType 0x2B#6 base rt off
  | .sb rt off base => iType 0x28#6 base rt off
  | .sh rt off base => iType 0x29#6 base rt off
  | .add rd rs rt => rType rs rt rd 0#5 0x20#6
  | .addu rd rs rt => rType rs rt rd 0#5 0x21#6
  | .sub rd rs rt => rType rs rt rd 0#5 0x22#6
  | .subu rd rs rt => rType rs rt rd 0#5 0x23#6
  | .slt rd rs rt => rType rs rt rd 0#5 0x2A#6
  | .sltu rd rs rt => rType rs rt rd 0#5 0x2B#6
  | .and rd rs rt => rType rs rt rd 0#5 0x24#6
  | .or rd rs rt => rType rs rt rd 0#5 0x25#6
  | .xor rd rs rt => rType rs rt rd 0#5 0x26#6
  | .nor rd rs rt => rType rs rt rd 0#5 0x27#6
  | .sll rd rt sa => rType 0#5 rt rd sa 0x00#6
  | .srl rd rt sa => rType 0#5 rt rd sa 0x02#6
  | .sra rd rt sa => rType 0#5 rt rd sa 0x03#6
  | .mult rs rt => rType rs rt 0#5 0#5 0x18#6
  | .multu rs rt => rType rs rt 0#5 0#5 0x19#6
  | .div rs rt => rType rs rt 0#5 0#5 0x1A#6
  | .divu rs rt => rType rs rt 0#5 0#5 0x1B#6
  | .addi rt rs imm => iType 0x08#6 rs rt imm
  | .addiu rt rs imm => iType 0x09#6 rs rt imm
  | .andi rt rs imm => iType 0x0C#6 rs rt imm
  | .ori rt rs imm => iType 0x0D#6 rs rt imm
  | .xori rt rs imm => iType 0x0E#6 rs rt imm
  | .lui rt imm => iType 0x0F#6 0#5 rt imm
  | .slti rt rs imm => iType 0x0A#6 rs rt imm
  | .sltiu rt rs imm => iType 0x0B#6 rs rt imm
  | .beq rs rt off => iType 0x04#6 rs rt off
  | .bne rs rt off => iType 0x05#6 rs rt off
  | .blez rs off => iType 0x06#6 rs 0#5 off
  | .bgtz rs off => iType 0x07#6 rs 0#5 off
  | .bltz rs off => iType 0x01#6 rs 0x00#5 off
  | .bgez rs off => iType 0x01#6 rs 0x01#5 off
  | .j target => jType 0x02#6 target
  | .jal target => jType 0x03#6 target
  | .jalr rd rs => rType rs 0#5 rd 0#5 0x09#6
  | .jr rs => rType rs 0#5 0#5 0#5 0x08#6
  | .mfhi rd => rType 0#5 0#5 rd 0#5 0x10#6
  | .mflo rd => rType 0#5 0#5 rd 0#5 0x12#6
  | .mthi rs => rType rs 0#5 0#5 0#5 0x11#6
  | .mtlo rs => rType rs 0#5 0#5 0#5 0x13#6
  | .eret => 0x42000018#32
  | .mfc0 rt rd sel => cp0Type 0x00#5 rt rd sel
  | .mtc0 rt rd sel => cp0Type 0x04#5 rt rd sel
  | .brk => rType 0#5 0#5 0#5 0#5 0x0D#6
  | .syscall => rType 0#5 0#5 0#5 0#5 0x0C#6
  | .sllv rd rt rs => rType rs rt rd 0#5 0x04#6
  | .srlv rd rt rs => rType rs rt rd 0#5 0x06#6
  | .srav rd rt rs => rType rs rt rd 0#5 0x07#6
  | .bgezal rs off => iType 0x01#6 rs 0x11#5 off
  | .bltzal rs off => iType 0x01#6 rs 0x10#5 off

/-- The four bytes of an instruction as they lie in memory (R70, 20_memory.md R43). -/
def encodeBytes (c : Config) (i : Instr) : List Byte :=
  bytesOfWord c.endian 4 (encode i)

/-! The opcode table of 30_encoding.md R83. -/

/-- One row of opcode_table.json (R83): a word is of this row iff `word & mask = bits`; under STRICT_DECODE also
`word & strictMask = bits` (the table's strict_match equals its match in every row). -/
structure OpcodeRow where
  mnemonic : String
  mask : Word
  bits : Word
  strictMask : Word
  hist : Bool
deriving DecidableEq, Repr

/-- The row has this word (R83). -/
def OpcodeRow.matches (r : OpcodeRow) (ir : Word) : Bool :=
  ir &&& r.mask == r.bits

/-- The row admits this word on a machine with parameters `c` (R83). -/
def OpcodeRow.admits (r : OpcodeRow) (c : Config) (ir : Word) : Bool :=
  r.matches ir && (!c.strictDecode || ir &&& r.strictMask == r.bits) && (!r.hist || c.histInstrs)

/-- The rows of 40_load_store.md. -/
def loadStoreRows : List OpcodeRow :=
  [⟨"lw", 0xFC000000#32, 0x8C000000#32, 0xFC000000#32, false⟩,
   ⟨"lb", 0xFC000000#32, 0x80000000#32, 0xFC000000#32, false⟩,
   ⟨"lbu", 0xFC000000#32, 0x90000000#32, 0xFC000000#32, false⟩,
   ⟨"lh", 0xFC000000#32, 0x84000000#32, 0xFC000000#32, false⟩,
   ⟨"lhu", 0xFC000000#32, 0x94000000#32, 0xFC000000#32, false⟩,
   ⟨"sw", 0xFC000000#32, 0xAC000000#32, 0xFC000000#32, false⟩,
   ⟨"sb", 0xFC000000#32, 0xA0000000#32, 0xFC000000#32, false⟩,
   ⟨"sh", 0xFC000000#32, 0xA4000000#32, 0xFC000000#32, false⟩]

/-- The rows of 41_alu_r.md. -/
def aluRRows : List OpcodeRow :=
  [⟨"add", 0xFC00003F#32, 0x00000020#32, 0xFC0007FF#32, false⟩,
   ⟨"addu", 0xFC00003F#32, 0x00000021#32, 0xFC0007FF#32, false⟩,
   ⟨"sub", 0xFC00003F#32, 0x00000022#32, 0xFC0007FF#32, false⟩,
   ⟨"subu", 0xFC00003F#32, 0x00000023#32, 0xFC0007FF#32, false⟩,
   ⟨"slt", 0xFC00003F#32, 0x0000002A#32, 0xFC0007FF#32, false⟩,
   ⟨"sltu", 0xFC00003F#32, 0x0000002B#32, 0xFC0007FF#32, false⟩,
   ⟨"and", 0xFC00003F#32, 0x00000024#32, 0xFC0007FF#32, false⟩,
   ⟨"or", 0xFC00003F#32, 0x00000025#32, 0xFC0007FF#32, false⟩,
   ⟨"xor", 0xFC00003F#32, 0x00000026#32, 0xFC0007FF#32, false⟩,
   ⟨"nor", 0xFC00003F#32, 0x00000027#32, 0xFC0007FF#32, false⟩,
   ⟨"sll", 0xFC00003F#32, 0x00000000#32, 0xFFE0003F#32, false⟩,
   ⟨"srl", 0xFC00003F#32, 0x00000002#32, 0xFFE0003F#32, false⟩,
   ⟨"sra", 0xFC00003F#32, 0x00000003#32, 0xFFE0003F#32, false⟩]

/-- The rows of 42_muldiv.md. -/
def mulDivRows : List OpcodeRow :=
  [⟨"mult", 0xFC00003F#32, 0x00000018#32, 0xFC00FFFF#32, false⟩,
   ⟨"multu", 0xFC00003F#32, 0x00000019#32, 0xFC00FFFF#32, false⟩,
   ⟨"div", 0xFC00003F#32, 0x0000001A#32, 0xFC00FFFF#32, false⟩,
   ⟨"divu", 0xFC00003F#32, 0x0000001B#32, 0xFC00FFFF#32, false⟩]

/-- The rows of 43_alu_i.md. -/
def aluIRows : List OpcodeRow :=
  [⟨"addi", 0xFC000000#32, 0x20000000#32, 0xFC000000#32, false⟩,
   ⟨"addiu", 0xFC000000#32, 0x24000000#32, 0xFC000000#32, false⟩,
   ⟨"andi", 0xFC000000#32, 0x30000000#32, 0xFC000000#32, false⟩,
   ⟨"ori", 0xFC000000#32, 0x34000000#32, 0xFC000000#32, false⟩,
   ⟨"xori", 0xFC000000#32, 0x38000000#32, 0xFC000000#32, false⟩,
   ⟨"lui", 0xFC000000#32, 0x3C000000#32, 0xFFE00000#32, false⟩,
   ⟨"slti", 0xFC000000#32, 0x28000000#32, 0xFC000000#32, false⟩,
   ⟨"sltiu", 0xFC000000#32, 0x2C000000#32, 0xFC000000#32, false⟩]

/-- The rows of 44_branch.md. -/
def branchRows : List OpcodeRow :=
  [⟨"beq", 0xFC000000#32, 0x10000000#32, 0xFC000000#32, false⟩,
   ⟨"bne", 0xFC000000#32, 0x14000000#32, 0xFC000000#32, false⟩,
   ⟨"blez", 0xFC000000#32, 0x18000000#32, 0xFC1F0000#32, false⟩,
   ⟨"bgtz", 0xFC000000#32, 0x1C000000#32, 0xFC1F0000#32, false⟩,
   ⟨"bltz", 0xFC1F0000#32, 0x04000000#32, 0xFC1F0000#32, false⟩,
   ⟨"bgez", 0xFC1F0000#32, 0x04010000#32, 0xFC1F0000#32, false⟩]

/-- The rows of 45_jump.md. -/
def jumpRows : List OpcodeRow :=
  [⟨"j", 0xFC000000#32, 0x08000000#32, 0xFC000000#32, false⟩,
   ⟨"jal", 0xFC000000#32, 0x0C000000#32, 0xFC000000#32, false⟩,
   ⟨"jalr", 0xFC00003F#32, 0x00000009#32, 0xFC1F07FF#32, false⟩,
   ⟨"jr", 0xFC00003F#32, 0x00000008#32, 0xFC1FFFFF#32, false⟩]

/-- The rows of 46_hilo_move.md. -/
def hiLoRows : List OpcodeRow :=
  [⟨"mfhi", 0xFC00003F#32, 0x00000010#32, 0xFFFF07FF#32, false⟩,
   ⟨"mflo", 0xFC00003F#32, 0x00000012#32, 0xFFFF07FF#32, false⟩,
   ⟨"mthi", 0xFC00003F#32, 0x00000011#32, 0xFC1FFFFF#32, false⟩,
   ⟨"mtlo", 0xFC00003F#32, 0x00000013#32, 0xFC1FFFFF#32, false⟩]

/-- The rows of 47_cp0_privileged.md. -/
def cp0Rows : List OpcodeRow :=
  [⟨"eret", 0xFE00003F#32, 0x42000018#32, 0xFFFFFFFF#32, false⟩,
   ⟨"mfc0", 0xFFE00000#32, 0x40000000#32, 0xFFE007FF#32, false⟩,
   ⟨"mtc0", 0xFFE00000#32, 0x40800000#32, 0xFFE007FF#32, false⟩]

/-- The rows of 48_trap.md. -/
def trapRows : List OpcodeRow :=
  [⟨"break", 0xFC00003F#32, 0x0000000D#32, 0xFFFFFFFF#32, false⟩,
   ⟨"syscall", 0xFC00003F#32, 0x0000000C#32, 0xFFFFFFFF#32, false⟩]

/-- The rows of 41_alu_r.md R134 to R136 and 44_branch.md R187, R188. -/
def historicalRows : List OpcodeRow :=
  [⟨"sllv", 0xFC00003F#32, 0x00000004#32, 0xFC0007FF#32, true⟩,
   ⟨"srlv", 0xFC00003F#32, 0x00000006#32, 0xFC0007FF#32, true⟩,
   ⟨"srav", 0xFC00003F#32, 0x00000007#32, 0xFC0007FF#32, true⟩,
   ⟨"bgezal", 0xFC1F0000#32, 0x04110000#32, 0xFC1F0000#32, true⟩,
   ⟨"bltzal", 0xFC1F0000#32, 0x04100000#32, 0xFC1F0000#32, true⟩]

/-- The whole opcode table (R83). -/
def opcodeTable : List OpcodeRow :=
  loadStoreRows ++ aluRRows ++ mulDivRows ++ aluIRows ++ branchRows ++
  jumpRows ++ hiLoRows ++ cp0Rows ++ trapRows ++ historicalRows

/-- The mnemonic of an instruction, as the opcode table spells it. -/
def Instr.mnemonic : Instr → String
  | .lw .. => "lw"
  | .lb .. => "lb"
  | .lbu .. => "lbu"
  | .lh .. => "lh"
  | .lhu .. => "lhu"
  | .sw .. => "sw"
  | .sb .. => "sb"
  | .sh .. => "sh"
  | .add .. => "add"
  | .addu .. => "addu"
  | .sub .. => "sub"
  | .subu .. => "subu"
  | .slt .. => "slt"
  | .sltu .. => "sltu"
  | .and .. => "and"
  | .or .. => "or"
  | .xor .. => "xor"
  | .nor .. => "nor"
  | .sll .. => "sll"
  | .srl .. => "srl"
  | .sra .. => "sra"
  | .mult .. => "mult"
  | .multu .. => "multu"
  | .div .. => "div"
  | .divu .. => "divu"
  | .addi .. => "addi"
  | .addiu .. => "addiu"
  | .andi .. => "andi"
  | .ori .. => "ori"
  | .xori .. => "xori"
  | .lui .. => "lui"
  | .slti .. => "slti"
  | .sltiu .. => "sltiu"
  | .beq .. => "beq"
  | .bne .. => "bne"
  | .blez .. => "blez"
  | .bgtz .. => "bgtz"
  | .bltz .. => "bltz"
  | .bgez .. => "bgez"
  | .j .. => "j"
  | .jal .. => "jal"
  | .jalr .. => "jalr"
  | .jr .. => "jr"
  | .mfhi .. => "mfhi"
  | .mflo .. => "mflo"
  | .mthi .. => "mthi"
  | .mtlo .. => "mtlo"
  | .eret .. => "eret"
  | .mfc0 .. => "mfc0"
  | .mtc0 .. => "mtc0"
  | .brk .. => "break"
  | .syscall .. => "syscall"
  | .sllv .. => "sllv"
  | .srlv .. => "srlv"
  | .srav .. => "srav"
  | .bgezal .. => "bgezal"
  | .bltzal .. => "bltzal"

/-- The table row of an instruction word given as a number, bit 0 least significant: the four bytes are laid out as the
default machine stores them and decoded with HIST_INSTRS true, because the table lists the historical rows too
(log 4). -/
def decodeTableWord (nbits w : Nat) : Option Instr :=
  let c : Config := { Machine.defaultConfig with histInstrs := true }
  match decodeBytes c (bytesOfWord c.endian 4 (BitVec.ofNat 32 (w % 2 ^ nbits))) with
  | .ok (i, _) => some i
  | .error _ => none

end Sys2Proof
end

