-- ==== Sys2Proof/Machine/State.lean ====
section
/-! DEFINITION. The state of the machine (10_state.md), the reasons a step can stop (60_exceptions.md R277), and the
state after reset. -/

namespace Sys2Proof.Machine

/-- The faults at which the model stops with no state changed (60_exceptions.md R277). -/
inductive Fault where
  /-- Raised by the fetch when pc[1:0] is not zero (10_state.md R16). Safe: the spec gives the case no meaning. -/
  | misalignedFetch
  /-- Raised by lw, sw, lh, lhu, sh at an address not aligned for the width (20_memory.md R46). Safe: as above. -/
  | misalignedAccess
  /-- Raised by the fetch, a load or a store touching a byte outside MEM_MAP (20_memory.md R47). Safe: as above. -/
  | unmappedAccess
  /-- Raised by the fetch of a byte that a store has written since launch (20_memory.md R57). Safe: as above. -/
  | fetchAfterStore
  /-- Raised by the step for a word that no opcode-table row admits (30_encoding.md R85). Safe: as above. -/
  | undefinedInstruction
  /-- Raised by mfc0 and mtc0 for a CP0 register other than 12, 13, 14, and by mfc0 for a selector other than 0
  (47_cp0_privileged.md R222, R223; 60_exceptions.md R277). Safe: as above. -/
  | unimplementedCp0Register
  /-- Raised by a store to a byte that MEM_MAP says is read-only (00_scope.md R5). Safe: the spec says nothing of such
  a store, and the default MEM_MAP has no such byte (log 7). -/
  | readOnlyStore
deriving DecidableEq, Repr

/-- The refusals. -/
inductive Refusal where
  /-- Raised by no arm of `exec`: every instruction has its meaning. Safe. -/
  | notModelled (mnemonic : String)
  /-- Raised by the fetch, a load or a store of a byte that MEM_MAP gives to a device, whose behaviour is the
  platform's and outside the spec (20_memory.md R48). Safe: the default MEM_MAP has no device (log 7). -/
  | deviceAccess
deriving DecidableEq, Repr

/-- Memory (20_memory.md R40): the bytes that differ from what an unlisted address reads as, addresses strictly
rising. `Memory.wf` in Ops.lean says the form. -/
abbrev Memory := List Host.Cell

/-- The state of the machine, all of it plain data. -/
structure State where
  /-- x[0] to x[31] (10_state.md R10). Entry 0 is never read (R11). -/
  gpr : Vector Word 32
  /-- The address of the instruction being executed (R14). -/
  pc : Word
  /-- HI (R17). -/
  hi : Word
  /-- LO (R17). -/
  lo : Word
  /-- CP0 register 12, Status (R20). -/
  status : Word
  /-- CP0 register 13, Cause (R23). -/
  cause : Word
  /-- CP0 register 14, EPC (R25). -/
  epc : Word
  /-- The bytes of memory (20_memory.md R40). -/
  mem : Memory
  /-- The byte addresses that a store has written since launch, strictly rising (20_memory.md R57). -/
  stored : List Nat
  /-- The model's own: the request lines the environment asserts at the coming step boundaries, the next one first;
  after the last, none (10_state.md R28; log 23). -/
  irq : List Lines
  /-- The model's own: whether the timer of TIMER signals at the coming steps, the next one first; after the
  last, never (60_exceptions.md R272; log 38). -/
  ticks : List Bool
  /-- The model's own: how many free values have been drawn (00_scope.md R7; log 24). -/
  draws : Nat
  /-- The model's own: the parameters, which no step changes (00_scope.md R5, 10_state.md R31; log 5). -/
  cfg : Config
deriving DecidableEq, Repr

/-- The launch state of a machine with parameters `c` (10_state.md R30, 70_reset_and_hazards.md R300): x[0] is 0 (R11);
every other value is a DESIGN CHOICE (log 1, log 2, log 3, log 23, log 38), unsafe: the spec says the item is unspecified
after reset. -/
def State.launch (c : Config) : State where
  gpr := Vector.replicate 32 0#32
  pc := c.resetPc
  hi := 0#32
  lo := 0#32
  status := 0#32
  cause := 0#32
  epc := 0#32
  mem := []
  stored := []
  irq := []
  ticks := []
  draws := 0
  cfg := c

/-- The machine right after reset, with the default parameters of 00_scope.md R5. -/
def State.reset : State :=
  State.launch defaultConfig

end Sys2Proof.Machine
end

