-- ==== Sys2Proof/Machine/Ops.lean ====
section
/-! DEFINITION. The named operations over memory, registers and CP0, and taking an exception and returning from one,
each once for all the instructions that use it. -/

namespace Sys2Proof.Machine

/-- An operation that gives a value, or stops the machine. -/
abbrev Result (α : Type) := Host.Outcome α Fault Refusal

/-- Go on with a result's value, or keep its stop. -/
def andThen {α β : Type} (r : Result α) (f : α → Result β) : Result β :=
  match r with
  | .next a => f a
  | .fault e => .fault e
  | .refused e => .refused e

/-! General registers: 10_state.md R10 to R13. -/

/-- The link register `ra`, x[31] (R12). -/
def linkReg : Reg := 31#5

/-- `x[r]`: x[0] always reads as zero (R11; PRESUMED, GK1, log 27). -/
def State.readGpr (s : State) (r : Reg) : Word :=
  if r = 0#5 then 0#32 else s.gpr[r.toNat]'r.isLt

/-- `x[r] <- v`: a write to x[0] is discarded (R11; PRESUMED, GK1, log 27). -/
def State.writeGpr (s : State) (r : Reg) (v : Word) : State :=
  if r = 0#5 then s else { s with gpr := s.gpr.set r.toNat v r.isLt }

/-! The other plain registers. -/

/-- `pc <- a`. -/
def State.setPc (s : State) (a : Word) : State := { s with pc := a }

/-- `HI <- v`. -/
def State.setHi (s : State) (v : Word) : State := { s with hi := v }

/-- `LO <- v`. -/
def State.setLo (s : State) (v : Word) : State := { s with lo := v }

/-- All of Status. -/
def State.setStatus (s : State) (v : Word) : State := { s with status := v }

/-- All of Cause. -/
def State.setCause (s : State) (v : Word) : State := { s with cause := v }

/-- `CP0.EPC <- v`. -/
def State.setEpc (s : State) (v : Word) : State := { s with epc := v }

/-- Memory, and the addresses stored to since launch. -/
def State.setMem (s : State) (m : Memory) (st : List Nat) : State := { s with mem := m, stored := st }

/-- The environment's coming requests. -/
def State.setIrq (s : State) (l : List Lines) : State := { s with irq := l }

/-- The timer's coming signals. -/
def State.setTicks (s : State) (l : List Bool) : State := { s with ticks := l }

/-- Count `n` free values as drawn. -/
def State.draw (s : State) (n : Nat) : State := { s with draws := s.draws + n }

/-- `pc <- pc + 4`, modulo 2^32 (10_state.md R15; D28, log 29). -/
def State.advance (s : State) : State := s.setPc (s.pc + 4#32)

/-! Bytes of memory: 20_memory.md R40 to R44. -/

/-- What an unlisted address reads as. DESIGN CHOICE (log 3), unsafe: the spec says nothing of a byte's initial
content. -/
def unlistedByte : Byte := 0#8

/-- The byte at an address. -/
def Memory.read : Memory → Nat → Byte
  | [], _ => unlistedByte
  | (b, v) :: rest, a => if a = b then v else Memory.read rest a

/-- Memory with one byte changed, in canonical form again: an entry equal to what an unlisted address reads as is not
listed. -/
def Memory.write : Memory → Nat → Byte → Memory
  | [], a, v => if v = unlistedByte then [] else [(a, v)]
  | (b, w) :: rest, a, v =>
    if a < b then
      if v = unlistedByte then (b, w) :: rest else (a, v) :: (b, w) :: rest
    else if a = b then
      if v = unlistedByte then rest else (a, v) :: rest
    else (b, w) :: Memory.write rest a v

/-- The canonical form, for addresses from `lo` on: strictly rising, inside the 32-bit space, and no entry equal to what
an unlisted address reads as. -/
def Memory.wfFrom : Nat → Memory → Bool
  | _, [] => true
  | lo, (a, v) :: rest => decide (lo ≤ a) && decide (a < 2 ^ 32) && !(v == unlistedByte) && Memory.wfFrom (a + 1) rest

/-- The canonical form of memory. -/
def Memory.wf (m : Memory) : Bool := Memory.wfFrom 0 m

/-- The bytes at `n` addresses from `ea` on, in address order. -/
def Memory.readBytes (m : Memory) (ea : Word) : Nat → List Byte
  | 0 => []
  | n + 1 => Memory.read m ea.toNat :: Memory.readBytes m (ea + 1#32) n

/-- Memory with bytes stored from `ea` on, in address order. -/
def Memory.writeBytes (m : Memory) (ea : Word) : List Byte → Memory
  | [] => m
  | b :: bs => Memory.writeBytes (Memory.write m ea.toNat b) (ea + 1#32) bs

/-- The `n` byte addresses from `ea` on. An admitted access never wraps (R50). -/
def accessAddrs (ea : Word) : Nat → List Nat
  | 0 => []
  | n + 1 => ea.toNat :: accessAddrs (ea + 1#32) n

/-- Note an address as stored to (R57): a strictly rising list, each address once. -/
def noteStored : List Nat → Nat → List Nat
  | [], a => [a]
  | b :: rest, a => if a < b then a :: b :: rest else if a = b then b :: rest else b :: noteStored rest a

/-- Note several addresses as stored to (R57). -/
def noteAllStored (st : List Nat) : List Nat → List Nat
  | [] => st
  | a :: as => noteAllStored (noteStored st a) as

/-- The form of the noted addresses, from `lo` on: strictly rising and inside the 32-bit space. -/
def storedWfFrom : Nat → List Nat → Bool
  | _, [] => true
  | lo, a :: rest => decide (lo ≤ a) && decide (a < 2 ^ 32) && storedWfFrom (a + 1) rest

/-- The form of the noted addresses. -/
def storedWf (st : List Nat) : Bool := storedWfFrom 0 st

/-! Which addresses exist: 20_memory.md R47, 00_scope.md R5 (MEM_MAP). -/

/-- What an access is for. -/
inductive Access where
  | fetch
  | load
  | store
deriving DecidableEq, Repr

/-- What MEM_MAP says of one byte for one kind of access. -/
inductive ByteClass where
  | unmapped
  | readOnly
  | device
  | plain
deriving DecidableEq, Repr

/-- The region holds the address and exists for this kind of access (D6: fetch-only and data-only regions). -/
def Region.covers (r : Region) (k : Access) (a : Nat) : Bool :=
  decide (r.base ≤ a) && decide (a < r.base + r.size) &&
    match k with
    | .fetch => r.fetch
    | .load => r.data
    | .store => r.data

/-- What MEM_MAP says of a byte; of two regions that cover it the first decides. DESIGN CHOICE (log 7), safe. -/
def classify (map : List Region) (k : Access) (a : Nat) : ByteClass :=
  match map.find? fun r => Region.covers r k a with
  | none => .unmapped
  | some r =>
    match r.kind with
    | .device => .device
    | .rom => if k = .store then .readOnly else .plain
    | .ram => .plain

/-- The existence check of an access to `n` bytes: a byte outside MEM_MAP is the fault UnmappedAccess (R47); a store to a
read-only byte and an access to a device have stops of their own (log 7). -/
def State.checkMapped (s : State) (k : Access) (ea : Word) (n : Nat) : Result Unit :=
  let cs := (accessAddrs ea n).map (classify s.cfg.memMap k)
  if ByteClass.unmapped ∈ cs then .fault .unmappedAccess
  else if ByteClass.readOnly ∈ cs then .fault .readOnlyStore
  else if ByteClass.device ∈ cs then .refused .deviceAccess
  else .next ()

/-! Accesses: `MemRead` and `MemWrite` of 00_scope.md R7. -/

/-- The three access widths (20_memory.md R48). -/
inductive Width where
  | byte
  | half
  | word
deriving DecidableEq, Repr

/-- How many bytes an access moves (R48). -/
def Width.bytes : Width → Nat
  | .byte => 1
  | .half => 2
  | .word => 4

/-- The required alignment: word `ea[1:0] = 0`, halfword `ea[0] = 0`, byte none (R45). -/
def aligned (w : Width) (ea : Word) : Bool :=
  ea.toNat % w.bytes == 0

/-- `MemRead(ea, n)`, zero-extended to a word: alignment, then existence, then the bytes in the machine's order
(R43, R46, R47; 40_load_store.md R100). -/
def State.memRead (s : State) (w : Width) (ea : Word) : Result Word :=
  if aligned w ea then
    andThen (s.checkMapped .load ea w.bytes) fun _ =>
      .next (wordOfBytes s.cfg.endian (Memory.readBytes s.mem ea w.bytes))
  else .fault .misalignedAccess

/-- The state after the low bytes of `v` are stored at `ea`, with the addresses noted for R57. -/
def State.storeBytes (s : State) (w : Width) (ea v : Word) : State :=
  s.setMem (Memory.writeBytes s.mem ea (bytesOfWord s.cfg.endian w.bytes v))
    (noteAllStored s.stored (accessAddrs ea w.bytes))

/-- `MemWrite(ea, n, v)`: the same checks, then the store (R43, R46, R47; 40_load_store.md R100). -/
def State.memWrite (s : State) (w : Width) (ea v : Word) : Result State :=
  if aligned w ea then
    andThen (s.checkMapped .store ea w.bytes) fun _ => .next (s.storeBytes w ea v)
  else .fault .misalignedAccess

/-- `MemFetch(pc)`: MisalignedFetch, then existence, then FetchAfterStore, then the word (R49, R57;
60_exceptions.md R259). At a word with both a device byte and a stored-to byte the model's own stop deviceAccess comes
before FetchAfterStore: R259 gives it no rank. DESIGN CHOICE (log 7, log 17), safe. -/
def State.memFetch (s : State) (a : Word) : Result Word :=
  if aligned .word a then
    andThen (s.checkMapped .fetch a 4) fun _ =>
      if (accessAddrs a 4).any fun b => decide (b ∈ s.stored) then .fault .fetchAfterStore
      else .next (wordOfBytes s.cfg.endian (Memory.readBytes s.mem a 4))
  else .fault .misalignedFetch

/-! CP0 fields: 10_state.md R20 to R27. -/

/-- The bits of `new` where `mask` has a one, and the bits of `old` elsewhere. -/
def mergeBits (old new mask : Word) : Word :=
  (old &&& ~~~mask) ||| (new &&& mask)

/-- The bit number of IE_BIT or BR_BIT (R20, R23). -/
def cellIndex : CellBit → Nat
  | .b31 => 31
  | .b30 => 30
  | .b29 => 29

/-- The one-bit mask of IE_BIT or BR_BIT. -/
def cellMask : CellBit → Word
  | .b31 => 0x80000000#32
  | .b30 => 0x40000000#32
  | .b29 => 0x20000000#32

/-- Bits 28:9, Interrupt Mask and Interrupt Pending (R20, R23). -/
def linesMask : Word := 0x1FFFFE00#32

/-- Bits 6:2, EXC (R23). -/
def excMask : Word := 0x0000007C#32

/-- The defined bits of Status: 0x9FFFFE00 when IE_BIT is 31 (R20). -/
def statusMask (c : Config) : Word := cellMask c.ieBit ||| linesMask

/-- The defined bits of Cause: 0x9FFFFE7C when BR_BIT is 31 (R23). -/
def causeMask (c : Config) : Word := cellMask c.brBit ||| linesMask ||| excMask

/-- CP0.Status.IE (R21). -/
def State.ie (s : State) : Bool := s.status.getLsbD (cellIndex s.cfg.ieBit)

/-- CP0.Status.IM, IM[i] = Status[9 + i] (R22). -/
def State.im (s : State) : Lines := s.status.extractLsb' 9 20

/-- CP0.Cause.BR (R23). -/
def State.br (s : State) : Bool := s.cause.getLsbD (cellIndex s.cfg.brBit)

/-- CP0.Cause.IP, IP[i] = Cause[9 + i] (R24). -/
def State.ip (s : State) : Lines := s.cause.extractLsb' 9 20

/-- CP0.Cause.EXC (R24). -/
def State.exc (s : State) : BitVec 5 := s.cause.extractLsb' 2 5

/-- A bit at every place, for `mergeBits`. -/
def bitWord (b : Bool) : Word := if b then 0xFFFFFFFF#32 else 0#32

/-- CP0.Status.IE <- b. -/
def State.setIe (s : State) (b : Bool) : State :=
  s.setStatus (mergeBits s.status (bitWord b) (cellMask s.cfg.ieBit))

/-- CP0.Cause.BR <- b. -/
def State.setBr (s : State) (b : Bool) : State :=
  s.setCause (mergeBits s.cause (bitWord b) (cellMask s.cfg.brBit))

/-- CP0.Cause.EXC <- code. -/
def State.setExc (s : State) (code : BitVec 5) : State :=
  s.setCause (mergeBits s.cause (code.setWidth 32 <<< 2) excMask)

/-- Hardware sets the IP bits of the asserted lines and clears none (R28, D18; log 23). -/
def State.raiseLines (s : State) (l : Lines) : State :=
  s.setCause (s.cause ||| (l.setWidth 32 <<< 9))

/-- What mfc0 reads, and the state with the free values drawn (47_cp0_privileged.md R222): the reserved bits of Status
and Cause are free (10_state.md R27; log 19). A selector other than 0 stops, as R222 says. -/
def State.readCp0 (s : State) (r : Reg) (sel : BitVec 3) : Result (Word × State) :=
  if sel ≠ 0#3 then .fault .unimplementedCp0Register
  else if r = 12#5 then .next (mergeBits (Config.freeWord s.draws) s.status (statusMask s.cfg), s.draw 1)
  else if r = 13#5 then .next (mergeBits (Config.freeWord s.draws) s.cause (causeMask s.cfg), s.draw 1)
  else if r = 14#5 then .next (s.epc, s)
  else .fault .unimplementedCp0Register

/-- What mtc0 writes (47_cp0_privileged.md R223): every defined bit, reserved bits ignored (10_state.md R27; D19,
log 32). The register number alone selects, bits 10:0 of the word being unused (R223; 90_conflicts.md C9). -/
def State.writeCp0 (s : State) (r : Reg) (v : Word) : Result State :=
  if r = 12#5 then .next (s.setStatus (mergeBits s.status v (statusMask s.cfg)))
  else if r = 13#5 then .next (s.setCause (mergeBits s.cause v (causeMask s.cfg)))
  else if r = 14#5 then .next (s.setEpc v)
  else .fault .unimplementedCp0Register

/-! Exceptions: 60_exceptions.md R250 to R268. -/

/-- The events that enter the handler: the four of R251, and the timer of a platform that has one, with the code the
platform names (R272, D32; DESIGN CHOICE, log 38, unsafe). -/
inductive Exc where
  | interrupt
  | syscall
  | breakpoint
  | overflow
  | timer (code : BitVec 5)
deriving DecidableEq, Repr

/-- The code written to Cause.EXC (R251; D13, log 12; the timer's: R272). -/
def excCode (c : Config) : Exc → BitVec 5
  | .interrupt => c.excInt
  | .syscall => c.excSys
  | .breakpoint => c.excBp
  | .overflow => c.excOv
  | .timer code => code

/-- `raise <Exc>(epc)`, the entry procedure of R262, the same for every cause: EPC, EXC, BR, IE cleared (R264; D14,
log 21), pc to EXC_VECTOR; nothing else. -/
def State.takeException (s : State) (e : Exc) (br : Bool) (epc : Word) : State :=
  ((((s.setEpc epc).setExc (excCode s.cfg e)).setBr br).setIe false).setPc s.cfg.excVector

/-- The return of eret (47_cp0_privileged.md R221): pc from EPC with no alignment check, IE set (D14, log 20), BR and EXC
free (D15, log 20), nothing else. -/
def State.returnFromException (s : State) : State :=
  ((((s.setExc (Config.freeCode s.draws)).setBr (Config.freeBit s.draws)).setIe true).setPc s.epc).draw 1

end Sys2Proof.Machine
end

