-- ==== Sys2Proof/Machine/Operands.lean ====
section
/-! DEFINITION. The operand forms of 30_encoding.md R76 to R79 and 20_memory.md R42. -/

namespace Sys2Proof.Machine

/-- The sign-extended immediate (R76). -/
def signedImm (imm : Imm16) : Word := imm.signExtend 32

/-- The zero-extended immediate (R76). -/
def zeroImm (imm : Imm16) : Word := imm.setWidth 32

/-- The upper immediate, `{imm, 16'b0}` (R76). -/
def upperImm (imm : Imm16) : Word := imm ++ 0#16

/-- The effective address, `x[base] + sext(off)` modulo 2^32 (20_memory.md R42; D28, log 29). -/
def State.effAddr (s : State) (base : Reg) (off : Imm16) : Word :=
  s.readGpr base + signedImm off

/-- The branch target, `pc + 4 + (sext(off) << 2)` modulo 2^32 (R78; D29, log 30). -/
def State.branchTarget (s : State) (off : Imm16) : Word :=
  s.pc + 4#32 + (signedImm off <<< 2)

/-- JumpAddr, `{(pc + 4)[31:28], target, 2'b00}` (R79; D30, log 30). -/
def State.jumpTarget (s : State) (target : Target26) : Word :=
  (s.pc + 4#32).extractLsb' 28 4 ++ target ++ 0#2

/-- The link value, `pc + 4` (45_jump.md R200; D2, log 14). -/
def State.linkValue (s : State) : Word := s.pc + 4#32

/-- The count of a variable shift, the low five bits of a register (41_alu_r.md R134; GK9, PRESUMED, log 9). -/
def shiftCount (v : Word) : Nat := (v.extractLsb' 0 5).toNat

end Sys2Proof.Machine
end

