-- ==== Sys2Proof/Machine/Results.lean ====
section
/-! DEFINITION. How instructions of one shape complete: the shared last part of the meanings. -/

namespace Sys2Proof.Machine

/-- Write a register and go to the next instruction (10_state.md R15). -/
def finishGpr (s : State) (rd : Reg) (v : Word) : Host.Outcome State Fault Refusal :=
  .next (s.writeGpr rd v).advance

/-- Write a register, or raise Overflow with EPC = pc and nothing written (60_exceptions.md R253, R260, R261). -/
def finishOrOverflow (s : State) (rd : Reg) (r : BitVec 33) : Host.Outcome State Fault Refusal :=
  if overflows r then .next (s.takeException .overflow false s.pc) else finishGpr s rd (r.setWidth 32)

/-- Write HI and LO and go to the next instruction (42_muldiv.md R150). -/
def finishHiLo (s : State) (hi lo : Word) : Host.Outcome State Fault Refusal :=
  .next ((s.setHi hi).setLo lo).advance

/-- Write two free values to HI and LO and go to the next instruction (42_muldiv.md R153, R154; D26, log 24). -/
def finishFreeHiLo (s : State) : Host.Outcome State Fault Refusal :=
  .next ((((s.setLo (Config.freeWord s.draws)).setHi (Config.freeWord (s.draws + 1))).advance).draw 2)

/-- A load (40_load_store.md R100): `ext` extends the zero-extended bytes read. -/
def finishLoad (s : State) (w : Width) (ext : Word → Word) (rt : Reg) (off : Imm16) (base : Reg) :
    Host.Outcome State Fault Refusal :=
  andThen (s.memRead w (s.effAddr base off)) fun v => finishGpr s rt (ext v)

/-- A store (40_load_store.md R100). -/
def finishStore (s : State) (w : Width) (rt : Reg) (off : Imm16) (base : Reg) : Host.Outcome State Fault Refusal :=
  andThen (s.memWrite w (s.effAddr base off) (s.readGpr rt)) fun t => .next t.advance

/-- A branch: to the target if the condition holds, else to the next instruction (44_branch.md R180; D2, log 14). -/
def finishBranch (s : State) (cond : Bool) (off : Imm16) : Host.Outcome State Fault Refusal :=
  .next (s.setPc (if cond then s.branchTarget off else s.pc + 4#32))

/-- A branch that links: x[31] is written whether or not it is taken, and the condition was read before (44_branch.md
R187; D34, GK15, log 28). -/
def finishBranchLink (s : State) (cond : Bool) (off : Imm16) : Host.Outcome State Fault Refusal :=
  finishBranch (s.writeGpr linkReg s.linkValue) cond off

end Sys2Proof.Machine
end

