-- ==== Sys2Proof/Machine/AluI.lean ====
section
/-! DEFINITION. Immediate ALU instructions: 43_alu_i.md. -/

namespace Sys2Proof.Machine

/-- addi: Overflow when the exact sum does not fit (R161). -/
def execAddi (rt rs : Reg) (imm : Imm16) (s : State) : Host.Outcome State Fault Refusal :=
  finishOrOverflow s rt (sum33 (s.readGpr rs) (signedImm imm))

/-- addiu: the immediate is sign-extended (R162). -/
def execAddiu (rt rs : Reg) (imm : Imm16) (s : State) : Host.Outcome State Fault Refusal :=
  finishGpr s rt (s.readGpr rs + signedImm imm)

/-- andi: the immediate is zero-extended (R163). -/
def execAndi (rt rs : Reg) (imm : Imm16) (s : State) : Host.Outcome State Fault Refusal :=
  finishGpr s rt (s.readGpr rs &&& zeroImm imm)

/-- ori: the immediate is zero-extended (R164). -/
def execOri (rt rs : Reg) (imm : Imm16) (s : State) : Host.Outcome State Fault Refusal :=
  finishGpr s rt (s.readGpr rs ||| zeroImm imm)

/-- xori: the immediate is zero-extended (R165). -/
def execXori (rt rs : Reg) (imm : Imm16) (s : State) : Host.Outcome State Fault Refusal :=
  finishGpr s rt (s.readGpr rs ^^^ zeroImm imm)

/-- lui: reads no register (R166). -/
def execLui (rt : Reg) (imm : Imm16) (s : State) : Host.Outcome State Fault Refusal :=
  finishGpr s rt (upperImm imm)

/-- slti, signed (R167). -/
def execSlti (rt rs : Reg) (imm : Imm16) (s : State) : Host.Outcome State Fault Refusal :=
  finishGpr s rt (boolWord ((s.readGpr rs).slt (signedImm imm)))

/-- sltiu: the immediate is sign-extended, then compared unsigned (R168). -/
def execSltiu (rt rs : Reg) (imm : Imm16) (s : State) : Host.Outcome State Fault Refusal :=
  finishGpr s rt (boolWord ((s.readGpr rs).ult (signedImm imm)))

end Sys2Proof.Machine
end

