-- ==== Sys2Proof/Machine/AluR.lean ====
section
/-! DEFINITION. Register ALU and shift instructions: 41_alu_r.md. -/

namespace Sys2Proof.Machine

/-- add: Overflow when the exact sum does not fit (R121). -/
def execAdd (rd rs rt : Reg) (s : State) : Host.Outcome State Fault Refusal :=
  finishOrOverflow s rd (sum33 (s.readGpr rs) (s.readGpr rt))

/-- addu (R122). -/
def execAddu (rd rs rt : Reg) (s : State) : Host.Outcome State Fault Refusal :=
  finishGpr s rd (s.readGpr rs + s.readGpr rt)

/-- sub: Overflow when the exact difference does not fit (R123). -/
def execSub (rd rs rt : Reg) (s : State) : Host.Outcome State Fault Refusal :=
  finishOrOverflow s rd (diff33 (s.readGpr rs) (s.readGpr rt))

/-- subu (R124). -/
def execSubu (rd rs rt : Reg) (s : State) : Host.Outcome State Fault Refusal :=
  finishGpr s rd (s.readGpr rs - s.readGpr rt)

/-- slt, signed (R125). -/
def execSlt (rd rs rt : Reg) (s : State) : Host.Outcome State Fault Refusal :=
  finishGpr s rd (boolWord ((s.readGpr rs).slt (s.readGpr rt)))

/-- sltu, unsigned (R126). -/
def execSltu (rd rs rt : Reg) (s : State) : Host.Outcome State Fault Refusal :=
  finishGpr s rd (boolWord ((s.readGpr rs).ult (s.readGpr rt)))

/-- and (R127). -/
def execAnd (rd rs rt : Reg) (s : State) : Host.Outcome State Fault Refusal :=
  finishGpr s rd (s.readGpr rs &&& s.readGpr rt)

/-- or (R128). -/
def execOr (rd rs rt : Reg) (s : State) : Host.Outcome State Fault Refusal :=
  finishGpr s rd (s.readGpr rs ||| s.readGpr rt)

/-- xor (R129). -/
def execXor (rd rs rt : Reg) (s : State) : Host.Outcome State Fault Refusal :=
  finishGpr s rd (s.readGpr rs ^^^ s.readGpr rt)

/-- nor (R130). -/
def execNor (rd rs rt : Reg) (s : State) : Host.Outcome State Fault Refusal :=
  finishGpr s rd (~~~(s.readGpr rs ||| s.readGpr rt))

/-- sll (R131; 90_conflicts.md C3). -/
def execSll (rd rt : Reg) (sa : Shamt) (s : State) : Host.Outcome State Fault Refusal :=
  finishGpr s rd (s.readGpr rt <<< sa.toNat)

/-- srl (R132; 90_conflicts.md C3). -/
def execSrl (rd rt : Reg) (sa : Shamt) (s : State) : Host.Outcome State Fault Refusal :=
  finishGpr s rd (s.readGpr rt >>> sa.toNat)

/-- sra (R133; 90_conflicts.md C2). -/
def execSra (rd rt : Reg) (sa : Shamt) (s : State) : Host.Outcome State Fault Refusal :=
  finishGpr s rd ((s.readGpr rt).sshiftRight sa.toNat)

/-- sllv, historical (R134). -/
def execSllv (rd rt rs : Reg) (s : State) : Host.Outcome State Fault Refusal :=
  finishGpr s rd (s.readGpr rt <<< shiftCount (s.readGpr rs))

/-- srlv, historical (R135). -/
def execSrlv (rd rt rs : Reg) (s : State) : Host.Outcome State Fault Refusal :=
  finishGpr s rd (s.readGpr rt >>> shiftCount (s.readGpr rs))

/-- srav, historical (R136). -/
def execSrav (rd rt rs : Reg) (s : State) : Host.Outcome State Fault Refusal :=
  finishGpr s rd ((s.readGpr rt).sshiftRight (shiftCount (s.readGpr rs)))

end Sys2Proof.Machine
end

