-- ==== Sys2Proof/Machine/Branch.lean ====
section
/-! DEFINITION. Conditional branches: 44_branch.md. -/

namespace Sys2Proof.Machine

/-- beq (R181). -/
def execBeq (rs rt : Reg) (off : Imm16) (s : State) : Host.Outcome State Fault Refusal :=
  finishBranch s (s.readGpr rs == s.readGpr rt) off

/-- bne (R182). -/
def execBne (rs rt : Reg) (off : Imm16) (s : State) : Host.Outcome State Fault Refusal :=
  finishBranch s (s.readGpr rs != s.readGpr rt) off

/-- blez, signed (R183). -/
def execBlez (rs : Reg) (off : Imm16) (s : State) : Host.Outcome State Fault Refusal :=
  finishBranch s (decide ((s.readGpr rs).toInt ≤ 0)) off

/-- bgtz, signed (R184). -/
def execBgtz (rs : Reg) (off : Imm16) (s : State) : Host.Outcome State Fault Refusal :=
  finishBranch s (decide ((s.readGpr rs).toInt > 0)) off

/-- bltz, signed (R185). -/
def execBltz (rs : Reg) (off : Imm16) (s : State) : Host.Outcome State Fault Refusal :=
  finishBranch s (decide ((s.readGpr rs).toInt < 0)) off

/-- bgez, signed (R186). -/
def execBgez (rs : Reg) (off : Imm16) (s : State) : Host.Outcome State Fault Refusal :=
  finishBranch s (decide ((s.readGpr rs).toInt ≥ 0)) off

/-- bgezal, historical: links to x[31] (R187). -/
def execBgezal (rs : Reg) (off : Imm16) (s : State) : Host.Outcome State Fault Refusal :=
  finishBranchLink s (decide ((s.readGpr rs).toInt ≥ 0)) off

/-- bltzal, historical: links to x[31] (R188). -/
def execBltzal (rs : Reg) (off : Imm16) (s : State) : Host.Outcome State Fault Refusal :=
  finishBranchLink s (decide ((s.readGpr rs).toInt < 0)) off

end Sys2Proof.Machine
end

