-- ==== Sys2Proof/Machine/Cp0.lean ====
section
/-! DEFINITION. Exception return and coprocessor 0 access: 47_cp0_privileged.md. There is one privilege mode, so no mode is
checked (60_exceptions.md R270; log 34). -/

namespace Sys2Proof.Machine

/-- eret (R221). -/
def execEret (s : State) : Host.Outcome State Fault Refusal :=
  .next s.returnFromException

/-- mfc0: `rd` is the CP0 register, `rt` the destination (R222). -/
def execMfc0 (rt rd : Reg) (sel : BitVec 3) (s : State) : Host.Outcome State Fault Refusal :=
  andThen (s.readCp0 rd sel) fun p => finishGpr p.2 rt p.1

/-- mtc0: `rd` is the CP0 register, `rt` the source, and the selector counts for nothing (R223). -/
def execMtc0 (rt rd : Reg) (_sel : BitVec 3) (s : State) : Host.Outcome State Fault Refusal :=
  andThen (s.writeCp0 rd (s.readGpr rt)) fun t => .next t.advance

end Sys2Proof.Machine
end

