-- ==== Sys2Proof/Machine/HiLo.lean ====
section
/-! DEFINITION. HI/LO transfer instructions: 46_hilo_move.md. -/

namespace Sys2Proof.Machine

/-- mfhi (R211). -/
def execMfhi (rd : Reg) (s : State) : Host.Outcome State Fault Refusal :=
  finishGpr s rd s.hi

/-- mflo (R212). -/
def execMflo (rd : Reg) (s : State) : Host.Outcome State Fault Refusal :=
  finishGpr s rd s.lo

/-- mthi: LO is unchanged (R213, R210). -/
def execMthi (rs : Reg) (s : State) : Host.Outcome State Fault Refusal :=
  .next (s.setHi (s.readGpr rs)).advance

/-- mtlo: HI is unchanged (R214, R210). -/
def execMtlo (rs : Reg) (s : State) : Host.Outcome State Fault Refusal :=
  .next (s.setLo (s.readGpr rs)).advance

end Sys2Proof.Machine
end

