-- ==== Sys2Proof/Machine/Jump.lean ====
section
/-! DEFINITION. Jumps, calls and returns: 45_jump.md. -/

namespace Sys2Proof.Machine

/-- j (R201). -/
def execJ (target : Target26) (s : State) : Host.Outcome State Fault Refusal :=
  .next (s.setPc (s.jumpTarget target))

/-- jal: links to x[31] (R202). -/
def execJal (target : Target26) (s : State) : Host.Outcome State Fault Refusal :=
  .next ((s.writeGpr linkReg s.linkValue).setPc (s.jumpTarget target))

/-- jalr: the target is read before rd is written (R203; D31, log 36). -/
def execJalr (rd rs : Reg) (s : State) : Host.Outcome State Fault Refusal :=
  .next ((s.writeGpr rd s.linkValue).setPc (s.readGpr rs))

/-- jr: no alignment check here (R204, 10_state.md R16). -/
def execJr (rs : Reg) (s : State) : Host.Outcome State Fault Refusal :=
  .next (s.setPc (s.readGpr rs))

end Sys2Proof.Machine
end

