-- ==== Sys2Proof/Machine/LoadStore.lean ====
section
/-! DEFINITION. Loads and stores: 40_load_store.md. -/

namespace Sys2Proof.Machine

/-- lw (R101). -/
def execLw (rt : Reg) (off : Imm16) (base : Reg) (s : State) : Host.Outcome State Fault Refusal :=
  finishLoad s .word id rt off base

/-- lb, sign-extending (R102). -/
def execLb (rt : Reg) (off : Imm16) (base : Reg) (s : State) : Host.Outcome State Fault Refusal :=
  finishLoad s .byte (fun v => (v.setWidth 8).signExtend 32) rt off base

/-- lbu, zero-extending (R103). -/
def execLbu (rt : Reg) (off : Imm16) (base : Reg) (s : State) : Host.Outcome State Fault Refusal :=
  finishLoad s .byte (fun v => (v.setWidth 8).setWidth 32) rt off base

/-- lh, sign-extending (R104). -/
def execLh (rt : Reg) (off : Imm16) (base : Reg) (s : State) : Host.Outcome State Fault Refusal :=
  finishLoad s .half (fun v => (v.setWidth 16).signExtend 32) rt off base

/-- lhu, zero-extending (R105). -/
def execLhu (rt : Reg) (off : Imm16) (base : Reg) (s : State) : Host.Outcome State Fault Refusal :=
  finishLoad s .half (fun v => (v.setWidth 16).setWidth 32) rt off base

/-- sw (R106). -/
def execSw (rt : Reg) (off : Imm16) (base : Reg) (s : State) : Host.Outcome State Fault Refusal :=
  finishStore s .word rt off base

/-- sb (R107). -/
def execSb (rt : Reg) (off : Imm16) (base : Reg) (s : State) : Host.Outcome State Fault Refusal :=
  finishStore s .byte rt off base

/-- sh (R108). -/
def execSh (rt : Reg) (off : Imm16) (base : Reg) (s : State) : Host.Outcome State Fault Refusal :=
  finishStore s .half rt off base

end Sys2Proof.Machine
end

