-- ==== Sys2Proof/Machine/MulDiv.lean ====
section
/-! DEFINITION. Multiply and divide: 42_muldiv.md. -/

namespace Sys2Proof.Machine

/-- HI and LO from the exact 64-bit product, HI the more significant half (10_state.md R17). -/
def finishProduct (s : State) (p : BitVec 64) : Host.Outcome State Fault Refusal :=
  finishHiLo s (p.extractLsb' 32 32) (p.extractLsb' 0 32)

/-- mult, signed (R151; GK6, PRESUMED, log 25). -/
def execMult (rs rt : Reg) (s : State) : Host.Outcome State Fault Refusal :=
  finishProduct s (BitVec.ofInt 64 ((s.readGpr rs).toInt * (s.readGpr rt).toInt))

/-- multu, unsigned (R152; GK6, PRESUMED, log 25). -/
def execMultu (rs rt : Reg) (s : State) : Host.Outcome State Fault Refusal :=
  finishProduct s (BitVec.ofNat 64 ((s.readGpr rs).toNat * (s.readGpr rt).toNat))

/-- div, signed: quotient to LO, truncated toward zero, remainder to HI (R153; GK5, PRESUMED, log 25); free values for a
zero divisor and for the one quotient that does not fit (D26, log 24). -/
def execDiv (rs rt : Reg) (s : State) : Host.Outcome State Fault Refusal :=
  let a := s.readGpr rs
  let b := s.readGpr rt
  if b = 0#32 then finishFreeHiLo s
  else if a = 0x80000000#32 ∧ b = 0xFFFFFFFF#32 then finishFreeHiLo s
  else finishHiLo s (BitVec.ofInt 32 (a.toInt.tmod b.toInt)) (BitVec.ofInt 32 (a.toInt.tdiv b.toInt))

/-- divu, unsigned: quotient to LO, remainder to HI (R154; GK5, PRESUMED, log 25); free values for a zero divisor (D26,
log 24). -/
def execDivu (rs rt : Reg) (s : State) : Host.Outcome State Fault Refusal :=
  let a := s.readGpr rs
  let b := s.readGpr rt
  if b = 0#32 then finishFreeHiLo s
  else finishHiLo s (BitVec.ofNat 32 (a.toNat % b.toNat)) (BitVec.ofNat 32 (a.toNat / b.toNat))

end Sys2Proof.Machine
end

