-- ==== Sys2Proof/Machine/Trap.lean ====
section
/-! DEFINITION. Trap instructions: 48_trap.md. -/

namespace Sys2Proof.Machine

/-- break: Breakpoint with EPC = pc + 4, whatever IE holds (R231, R230). -/
def execBreak (s : State) : Host.Outcome State Fault Refusal :=
  .next (s.takeException .breakpoint false (s.pc + 4#32))

/-- syscall: Syscall with EPC = pc + 4, whatever IE holds (R232, R230). -/
def execSyscall (s : State) : Host.Outcome State Fault Refusal :=
  .next (s.takeException .syscall false (s.pc + 4#32))

end Sys2Proof.Machine
end

