-- ==== Sys2Proof/Machine/Dispatch.lean ====
section
/-! DEFINITION. exec: one arm per instruction. -/

namespace Sys2Proof.Machine

/-- The meaning of an instruction in a state (10_state.md R29, part e). -/
def exec (i : Instr) (s : State) : Host.Outcome State Fault Refusal :=
  match i with
  | .lw rt off base => Sys2Proof.Machine.execLw rt off base s
  | .lb rt off base => Sys2Proof.Machine.execLb rt off base s
  | .lbu rt off base => Sys2Proof.Machine.execLbu rt off base s
  | .lh rt off base => Sys2Proof.Machine.execLh rt off base s
  | .lhu rt off base => Sys2Proof.Machine.execLhu rt off base s
  | .sw rt off base => Sys2Proof.Machine.execSw rt off base s
  | .sb rt off base => Sys2Proof.Machine.execSb rt off base s
  | .sh rt off base => Sys2Proof.Machine.execSh rt off base s
  | .add rd rs rt => Sys2Proof.Machine.execAdd rd rs rt s
  | .addu rd rs rt => Sys2Proof.Machine.execAddu rd rs rt s
  | .sub rd rs rt => Sys2Proof.Machine.execSub rd rs rt s
  | .subu rd rs rt => Sys2Proof.Machine.execSubu rd rs rt s
  | .slt rd rs rt => Sys2Proof.Machine.execSlt rd rs rt s
  | .sltu rd rs rt => Sys2Proof.Machine.execSltu rd rs rt s
  | .and rd rs rt => Sys2Proof.Machine.execAnd rd rs rt s
  | .or rd rs rt => Sys2Proof.Machine.execOr rd rs rt s
  | .xor rd rs rt => Sys2Proof.Machine.execXor rd rs rt s
  | .nor rd rs rt => Sys2Proof.Machine.execNor rd rs rt s
  | .sll rd rt sa => Sys2Proof.Machine.execSll rd rt sa s
  | .srl rd rt sa => Sys2Proof.Machine.execSrl rd rt sa s
  | .sra rd rt sa => Sys2Proof.Machine.execSra rd rt sa s
  | .mult rs rt => Sys2Proof.Machine.execMult rs rt s
  | .multu rs rt => Sys2Proof.Machine.execMultu rs rt s
  | .div rs rt => Sys2Proof.Machine.execDiv rs rt s
  | .divu rs rt => Sys2Proof.Machine.execDivu rs rt s
  | .addi rt rs imm => Sys2Proof.Machine.execAddi rt rs imm s
  | .addiu rt rs imm => Sys2Proof.Machine.execAddiu rt rs imm s
  | .andi rt rs imm => Sys2Proof.Machine.execAndi rt rs imm s
  | .ori rt rs imm => Sys2Proof.Machine.execOri rt rs imm s
  | .xori rt rs imm => Sys2Proof.Machine.execXori rt rs imm s
  | .lui rt imm => Sys2Proof.Machine.execLui rt imm s
  | .slti rt rs imm => Sys2Proof.Machine.execSlti rt rs imm s
  | .sltiu rt rs imm => Sys2Proof.Machine.execSltiu rt rs imm s
  | .beq rs rt off => Sys2Proof.Machine.execBeq rs rt off s
  | .bne rs rt off => Sys2Proof.Machine.execBne rs rt off s
  | .blez rs off => Sys2Proof.Machine.execBlez rs off s
  | .bgtz rs off => Sys2Proof.Machine.execBgtz rs off s
  | .bltz rs off => Sys2Proof.Machine.execBltz rs off s
  | .bgez rs off => Sys2Proof.Machine.execBgez rs off s
  | .j target => Sys2Proof.Machine.execJ target s
  | .jal target => Sys2Proof.Machine.execJal target s
  | .jalr rd rs => Sys2Proof.Machine.execJalr rd rs s
  | .jr rs => Sys2Proof.Machine.execJr rs s
  | .mfhi rd => Sys2Proof.Machine.execMfhi rd s
  | .mflo rd => Sys2Proof.Machine.execMflo rd s
  | .mthi rs => Sys2Proof.Machine.execMthi rs s
  | .mtlo rs => Sys2Proof.Machine.execMtlo rs s
  | .eret => Sys2Proof.Machine.execEret s
  | .mfc0 rt rd sel => Sys2Proof.Machine.execMfc0 rt rd sel s
  | .mtc0 rt rd sel => Sys2Proof.Machine.execMtc0 rt rd sel s
  | .brk => Sys2Proof.Machine.execBreak s
  | .syscall => Sys2Proof.Machine.execSyscall s
  | .sllv rd rt rs => Sys2Proof.Machine.execSllv rd rt rs s
  | .srlv rd rt rs => Sys2Proof.Machine.execSrlv rd rt rs s
  | .srav rd rt rs => Sys2Proof.Machine.execSrav rd rt rs s
  | .bgezal rs off => Sys2Proof.Machine.execBgezal rs off s
  | .bltzal rs off => Sys2Proof.Machine.execBltzal rs off s

end Sys2Proof.Machine
end

