-- ==== Sys2Proof/Machine/Fetch.lean ====
section
/-! DEFINITION. The parts of the instruction cycle around an instruction's meaning (10_state.md R29): the environment's
requests, the interrupt check, fetch and decode. -/

namespace Sys2Proof.Machine

/-- Part (a) of R29: the lines the environment asserts at this step boundary set their IP bits (R28; log 23), and the
timer's signal of this step, which `timerSignal` reads, is used up (log 38). -/
def State.latchIrq (s : State) : State :=
  (match s.irq with
    | [] => s
    | l :: rest => (s.raiseLines l).setIrq rest).setTicks s.ticks.tail

/-- The code of the timer's exception, if there is a timer and it signals at this step (60_exceptions.md R272;
log 38). -/
def State.timerSignal (s : State) : Option (BitVec 5) :=
  if s.ticks.head? = some true then s.cfg.timer else none

/-- The interrupt condition: IE = 1 and (IM & IP) != 0 (60_exceptions.md R257). -/
def State.interruptPending (s : State) : Bool :=
  s.ie && !(s.im &&& s.ip == 0#20)

/-- The branches and jumps of 44_branch.md and 45_jump.md, which count for Cause.BR (60_exceptions.md R263). -/
def Instr.transfersControl : Instr → Bool
  | .beq .. | .bne .. | .blez .. | .bgtz .. | .bltz .. | .bgez .. | .bgezal .. | .bltzal .. => true
  | .j .. | .jal .. | .jalr .. | .jr .. => true
  | _ => false

/-- Parts (c) and (d) of R29: fetch the word at pc and decode it; a word that is no instruction is the fault
UndefinedInstruction (30_encoding.md R85). -/
def State.fetchInstr (s : State) : Result Instr :=
  andThen (s.memFetch s.pc) fun ir =>
    match decodeWord s.cfg ir with
    | .ok i => .next i
    | .error _ => .fault .undefinedInstruction

/-- Cause.BR at an interrupt or a timer's signal: the word at pc can be fetched and decodes to a branch or jump
(60_exceptions.md R263; for the timer log 38). A word that a store has touched counts as one that cannot be fetched:
DEDUCED (log 22), unsafe. Where MEM_MAP gives a byte of the word to a device, whose content the spec leaves to the platform
(D36), BR is a free value: DESIGN CHOICE (log 22), safe. -/
def State.victimIsBranch (s : State) : Bool :=
  match s.fetchInstr with
  | .next i => Instr.transfersControl i
  | .fault _ => false
  | .refused _ => Config.freeBit s.draws

/-- Taking an interrupt or the timer's exception: EPC = pc of the instruction that has not executed (60_exceptions.md
R257, R261, R263; for the timer log 38). The free value that `victimIsBranch` may use counts as drawn. -/
def State.takeBeforeInstruction (s : State) (e : Exc) : State :=
  (s.takeException e s.victimIsBranch s.pc).draw 1

/-- The load of one instruction word at pc from outside the machine (log 4): its bytes in memory, not counted as stored
to, and HIST_INSTRS true if the word is one of the historical instructions, which no other machine has. -/
def State.placeWord (s : State) (w : Word) : State :=
  let t := s.setMem (Memory.writeBytes s.mem s.pc (bytesOfWord s.cfg.endian 4 w))
    (s.stored.filter fun a => !decide (a ∈ accessAddrs s.pc 4))
  match decodeWord s.cfg w with
  | .error .historical => { t with cfg := { t.cfg with histInstrs := true } }
  | _ => t

end Sys2Proof.Machine
end

