-- ==== Sys2Proof/Machine/Step.lean ====
section
/-! DEFINITION. One step of the machine (10_state.md R29). -/

namespace Sys2Proof.Machine

/-- One step: the environment's requests, the interrupt check, fetch, decode, execute (10_state.md R29; the order of
60_exceptions.md R257 and R259). A timer's signal is taken in place of executing the decoded instruction, after all that
R259 puts before the instruction's own outcome: its place is DESIGN CHOICE (log 38), unsafe. -/
def step (s : State) : Host.Outcome State Fault Refusal :=
  if s.latchIrq.interruptPending then .next (s.latchIrq.takeBeforeInstruction .interrupt)
  else andThen s.latchIrq.fetchInstr fun i =>
    match s.timerSignal with
    | some code => .next (s.latchIrq.takeBeforeInstruction (.timer code))
    | none => exec i s.latchIrq

/-- `s` with the instruction whose bits are `w`, bit 0 least significant, where the next step fetches (log 4). -/
def State.withFetchWord (s : State) (nbits w : Nat) : State :=
  s.placeWord (BitVec.ofNat 32 (w % 2 ^ nbits))

end Sys2Proof.Machine
end

