-- ==== Sys2Proof/Machine/Run.lean ====
section
/-! DEFINITION. A run and what ends it: the parameter HALT of 00_scope.md R5. The step does not depend on it: the machine
never stops by itself except at a fault (92_eei_decisions.md D35, 93_implementation_defined.md U19). -/

namespace Sys2Proof.Machine

/-- The word at pc can be fetched and is a jump to itself, `beq $0, $0, -1` or `j` to its own address (D35). -/
def State.atSelfLoop (s : State) : Bool :=
  match s.fetchInstr with
  | .next (.beq rs rt off) => decide (rs = 0#5 ∧ rt = 0#5 ∧ off = 0xFFFF#16)
  | .next (.j target) => decide (s.jumpTarget target = s.pc)
  | _ => false

/-- HALT ends a run that is in state `s` after `k` steps (D35). With no HALT given, nothing does (U19). -/
def State.runEnded (s : State) (k : Nat) : Bool :=
  match s.cfg.halt with
  | none => false
  | some (.steps n) => decide (n ≤ k)
  | some (.atPc a) => decide (s.pc = a)
  | some .selfLoop => s.atSelfLoop

/-- The rest of a run whose first `k` steps led to `s`, followed for at most `fuel` steps more: the state where HALT ends
it, `none` if it has not ended by then, or the stop it meets. -/
def runToEnd : (fuel k : Nat) → State → Result (Option State)
  | 0, k, s => .next (if s.runEnded k then some s else none)
  | fuel + 1, k, s => if s.runEnded k then .next (some s) else andThen (step s) (runToEnd fuel (k + 1))

end Sys2Proof.Machine
end

