-- ==== Sys2Proof/Machine/Pseudo.lean ====
section
/-! DEFINITION. The assembler's pseudo-instructions as the instructions it replaces them by: 49_pseudo.md. The expansions
are PRESUMED (GK13, log 39). -/

namespace Sys2Proof.Machine

/-- The expansion of a pseudo-instruction (R241 to R244). -/
def expandPseudo : Pseudo → List Instr
  | .la rdest address =>
    [.lui rdest (address.extractLsb' 16 16), .ori rdest rdest (address.extractLsb' 0 16)]
  | .move rdest rsrc => [.addu rdest 0#5 rsrc]
  | .li rdest imm =>
    if imm.extractLsb' 16 16 = 0#16 then [.ori rdest 0#5 (imm.extractLsb' 0 16)]
    else if imm.extractLsb' 0 16 = 0#16 then [.lui rdest (imm.extractLsb' 16 16)]
    else [.lui rdest (imm.extractLsb' 16 16), .ori rdest rdest (imm.extractLsb' 0 16)]
  | .clear r => [.addu r 0#5 0#5]

/-- The meanings of several instructions, one after the other. -/
def execAll : List Instr → State → Result State
  | [], s => .next s
  | i :: is, s => andThen (exec i s) fun t => execAll is t

end Sys2Proof.Machine
end

