-- ==== Sys2Proof/Safety.lean ====
section
/-! DEFINITION. What counts as a well-formed state and a safe run, and the frames the claims are stated with. -/

namespace Sys2Proof.Machine

/-- A well-formed state: memory and the noted addresses in canonical form, the unused entry 0 of the register file zero
(10_state.md R11), and the reserved bits of Status and Cause as at reset (R27). -/
def State.wf (s : State) : Bool :=
  Memory.wf s.mem && storedWf s.stored && s.gpr[0] == 0#32 &&
    s.status &&& ~~~statusMask s.cfg == 0#32 && s.cause &&& ~~~causeMask s.cfg == 0#32

/-- No stop in the first `k` steps (60_exceptions.md R277: a claim about a run is a claim about runs that reach no
model fault). -/
def State.runsSafely (s : State) (k : Nat) : Prop :=
  ∃ t, Sys2Proof.core.run k s = .next t

/-! Frames. The model's own counter of free values is in none of them. -/

/-- Every general register as before. -/
def SameGprs (s t : State) : Prop := ∀ r, t.readGpr r = s.readGpr r

/-- HI and LO as before. -/
def SameHiLo (s t : State) : Prop := t.hi = s.hi ∧ t.lo = s.lo

/-- Status, Cause and EPC as before. -/
def SameCp0 (s t : State) : Prop := t.status = s.status ∧ t.cause = s.cause ∧ t.epc = s.epc

/-- Every byte of memory as before, and no address newly noted as stored to. -/
def SameMemory (s t : State) : Prop :=
  (∀ a, Memory.read t.mem a = Memory.read s.mem a) ∧ t.stored = s.stored

/-- The environment's coming requests, the timer's coming signals and the parameters as before. -/
def SameInputs (s t : State) : Prop := t.irq = s.irq ∧ t.ticks = s.ticks ∧ t.cfg = s.cfg

/-- Only `x[d]`, which becomes `v` (nothing, for x[0]), and pc, which becomes `a`, differ. -/
structure OnlyGprAndPc (s t : State) (d : Reg) (v a : Word) : Prop where
  gprs : ∀ r, t.readGpr r = if r = d ∧ d ≠ 0#5 then v else s.readGpr r
  pc : t.pc = a
  hilo : SameHiLo s t
  cp0 : SameCp0 s t
  memory : SameMemory s t
  inputs : SameInputs s t

/-- Only pc differs. -/
structure OnlyPc (s t : State) (a : Word) : Prop where
  gprs : SameGprs s t
  pc : t.pc = a
  hilo : SameHiLo s t
  cp0 : SameCp0 s t
  memory : SameMemory s t
  inputs : SameInputs s t

/-- Only HI, LO and pc, which advances, may differ. -/
structure OnlyHiLo (s t : State) : Prop where
  gprs : SameGprs s t
  pc : t.pc = s.pc + 4#32
  cp0 : SameCp0 s t
  memory : SameMemory s t
  inputs : SameInputs s t

/-- Only bytes of memory inside `n` bytes from `ea`, which are noted as stored to, and pc, which advances, may
differ. -/
structure OnlyStored (s t : State) (ea : Word) (n : Nat) : Prop where
  gprs : SameGprs s t
  pc : t.pc = s.pc + 4#32
  hilo : SameHiLo s t
  cp0 : SameCp0 s t
  outside : ∀ a, (∀ k < n, a ≠ ea.toNat + k) → Memory.read t.mem a = Memory.read s.mem a
  noted : ∀ a, a ∈ t.stored ↔ a ∈ s.stored ∨ ∃ k < n, a = ea.toNat + k
  inputs : SameInputs s t

/-- Only Status, Cause, EPC and pc may differ; IM, IP and the reserved bits of Status and Cause do not. -/
structure OnlyExceptionState (s t : State) : Prop where
  gprs : SameGprs s t
  hilo : SameHiLo s t
  memory : SameMemory s t
  inputs : SameInputs s t
  im : t.im = s.im
  ip : t.ip = s.ip
  statusReserved : ∀ k, (statusMask s.cfg).getLsbD k = false → t.status.getLsbD k = s.status.getLsbD k
  causeReserved : ∀ k, (causeMask s.cfg).getLsbD k = false → t.cause.getLsbD k = s.cause.getLsbD k

/-- The entry of 60_exceptions.md R262. -/
structure ExceptionEntry (s t : State) (code : BitVec 5) (br : Bool) (epc : Word) : Prop where
  epc : t.epc = epc
  exc : t.exc = code
  br : t.br = br
  ie : t.ie = false
  pc : t.pc = s.cfg.excVector
  frame : OnlyExceptionState s t

/-- Every byte of an access is plain memory for it (20_memory.md R47). -/
def AllPlain (s : State) (k : Access) (ea : Word) (n : Nat) : Prop :=
  ∀ j < n, classify s.cfg.memMap k (ea.toNat + j) = .plain

/-- Some byte of an access is outside MEM_MAP (20_memory.md R47). -/
def SomeUnmapped (s : State) (k : Access) (ea : Word) (n : Nat) : Prop :=
  ∃ j < n, classify s.cfg.memMap k (ea.toNat + j) = .unmapped

/-- Some byte of a store is read-only (00_scope.md R5, MEM_MAP; log 7). -/
def SomeReadOnly (s : State) (ea : Word) (n : Nat) : Prop :=
  ∃ j < n, classify s.cfg.memMap .store (ea.toNat + j) = .readOnly

/-- Some byte of an access belongs to a device (20_memory.md R48; log 7). -/
def SomeDevice (s : State) (k : Access) (ea : Word) (n : Nat) : Prop :=
  ∃ j < n, classify s.cfg.memMap k (ea.toNat + j) = .device

/-- The word at four addresses from `a` on, as 20_memory.md R43 assembles it; for big-endian the other way round
(log 8). -/
def wordAt (e : Endian) (m : Memory) (a : Nat) : Word :=
  match e with
  | .little => Memory.read m (a + 3) ++ Memory.read m (a + 2) ++ Memory.read m (a + 1) ++ Memory.read m a
  | .big => Memory.read m a ++ Memory.read m (a + 1) ++ Memory.read m (a + 2) ++ Memory.read m (a + 3)

/-- The halfword at two addresses from `a` on (20_memory.md R43). -/
def halfAt (e : Endian) (m : Memory) (a : Nat) : BitVec 16 :=
  match e with
  | .little => Memory.read m (a + 1) ++ Memory.read m a
  | .big => Memory.read m a ++ Memory.read m (a + 1)

/-- The step that starts at `s` reaches the execution of `i`: no interrupt and no timer signal is taken at it, and the word at pc is
fetched and decodes to `i` (10_state.md R29). -/
def StepExecutes (s : State) (i : Instr) : Prop :=
  s.latchIrq.interruptPending = false ∧ s.timerSignal = none ∧ s.latchIrq.fetchInstr = .next i

/-- The step that starts at `s` takes `e` in place of an instruction: the interrupt, or, with none to take and an instruction
fetched and decoded, the timer's exception (60_exceptions.md R257, R259, R272; log 38). -/
def StepTakes (s : State) (e : Exc) : Prop :=
  (e = .interrupt ∧ s.latchIrq.interruptPending = true) ∨
    ∃ code i, e = .timer code ∧ s.latchIrq.interruptPending = false ∧ s.timerSignal = some code ∧
      s.latchIrq.fetchInstr = .next i

/-! Exceptions of a step, and the access of an instruction. -/

/-- A result that fits no signed 32-bit word (41_alu_r.md R137; PRESUMED, GK8, log 26). -/
def OutOfRange (x : Int) : Prop := ¬(-2 ^ 31 ≤ x ∧ x < 2 ^ 31)

/-- Instruction `i` raises `e` when executed in `s` (60_exceptions.md R253, R254). -/
def Raises (s : State) (i : Instr) (e : Exc) : Prop :=
  (e = .syscall ∧ i = .syscall) ∨ (e = .breakpoint ∧ i = .brk) ∨
    e = .overflow ∧
      ((∃ rd rs rt, i = .add rd rs rt ∧ OutOfRange ((s.readGpr rs).toInt + (s.readGpr rt).toInt)) ∨
        (∃ rd rs rt, i = .sub rd rs rt ∧ OutOfRange ((s.readGpr rs).toInt - (s.readGpr rt).toInt)) ∨
        ∃ rt rs imm, i = .addi rt rs imm ∧ OutOfRange ((s.readGpr rs).toInt + imm.toInt))

/-- The step that starts at `s` raises `e`: what it takes in place of an instruction, or the exception of the instruction it executes
(60_exceptions.md R259). -/
def StepRaises (s : State) (e : Exc) : Prop :=
  StepTakes s e ∨ ∃ i, StepExecutes s i ∧ Raises s.latchIrq i e

/-- The address saved for each cause (60_exceptions.md R261; for the timer log 38). -/
def savedPc (s : State) : Exc → Word
  | .interrupt => s.pc
  | .overflow => s.pc
  | .timer _ => s.pc
  | .syscall => s.pc + 4#32
  | .breakpoint => s.pc + 4#32

/-- The step from `s` raises `e`, and `t` is its entry (60_exceptions.md R262). -/
def StepEnters (s t : State) (e : Exc) : Prop :=
  StepRaises s e ∧ ∃ br, ExceptionEntry s.latchIrq t (excCode s.cfg e) br (savedPc s e)

/-- The access of a load or store in `s`: what for, how wide, and where (20_memory.md R42, R48). -/
def dataAccess (s : State) : Instr → Option (Access × Width × Word)
  | .lw _ off base => some (.load, .word, s.effAddr base off)
  | .lh _ off base | .lhu _ off base => some (.load, .half, s.effAddr base off)
  | .lb _ off base | .lbu _ off base => some (.load, .byte, s.effAddr base off)
  | .sw _ off base => some (.store, .word, s.effAddr base off)
  | .sh _ off base => some (.store, .half, s.effAddr base off)
  | .sb _ off base => some (.store, .byte, s.effAddr base off)
  | .add .. | .addu .. | .sub .. | .subu .. | .slt .. | .sltu .. | .and .. | .or .. | .xor .. | .nor .. => none
  | .sll .. | .srl .. | .sra .. | .sllv .. | .srlv .. | .srav .. | .mult .. | .multu .. | .div .. | .divu .. => none
  | .addi .. | .addiu .. | .andi .. | .ori .. | .xori .. | .lui .. | .slti .. | .sltiu .. => none
  | .beq .. | .bne .. | .blez .. | .bgtz .. | .bltz .. | .bgez .. | .bgezal .. | .bltzal .. => none
  | .j .. | .jal .. | .jalr .. | .jr .. | .mfhi .. | .mflo .. | .mthi .. | .mtlo .. => none
  | .eret | .mfc0 .. | .mtc0 .. | .brk | .syscall => none

/-- The general register an instruction may write (10_state.md R13); x[31] for jal, bgezal, bltzal (R12). -/
def destination : Instr → Option Reg
  | .lw rt .. | .lb rt .. | .lbu rt .. | .lh rt .. | .lhu rt .. => some rt
  | .add rd .. | .addu rd .. | .sub rd .. | .subu rd .. | .slt rd .. | .sltu rd .. => some rd
  | .and rd .. | .or rd .. | .xor rd .. | .nor rd .. => some rd
  | .sll rd .. | .srl rd .. | .sra rd .. | .sllv rd .. | .srlv rd .. | .srav rd .. => some rd
  | .addi rt .. | .addiu rt .. | .andi rt .. | .ori rt .. | .xori rt .. | .lui rt .. | .slti rt .. | .sltiu rt .. => some rt
  | .jalr rd .. | .mfhi rd | .mflo rd => some rd
  | .mfc0 rt .. => some rt
  | .jal .. | .bgezal .. | .bltzal .. => some linkReg
  | .sw .. | .sb .. | .sh .. | .mult .. | .multu .. | .div .. | .divu .. => none
  | .beq .. | .bne .. | .blez .. | .bgtz .. | .bltz .. | .bgez .. | .j .. | .jr .. => none
  | .mthi .. | .mtlo .. | .eret | .mtc0 .. | .brk | .syscall => none

end Sys2Proof.Machine
end

