-- ==== Sys2Proof/Certificates/Slice0/Obligations.lean ====
section
/-! DEFINITION. The statements for the provers, from the numbered rules of spec/. Frames are those of Safety.lean; an
effective address is `State.effAddr`, the function the meanings use. -/

open Sys2Proof Sys2Proof.Machine

/-! Encoding: 30_encoding.md. -/

/-- Decoding the word of a well-formed instruction gives the instruction back, for every instruction, operand and
parameter. -/
def Obligations.DecodeOfEncodeIsTheInstruction : Prop :=
  ∀ (c : Config) (i : Instr), i.wellFormed c = true → decodeWord c (encode i) = .ok i

/-- Under STRICT_DECODE a decoded word is the canonical word of its instruction: no bit of it is dropped
(30_encoding.md R84; the check is the spec's decision D10, log 10). -/
def Obligations.StrictWordsAreCanonical : Prop :=
  ∀ (c : Config) (w : Word) (i : Instr), c.strictDecode = true → decodeWord c w = .ok i → encode i = w

/-- The decoder, written from the opcode maps of R80 to R82, admits exactly the words that a row of the mask and match
table admits, as that row's instruction (R83). -/
def Obligations.DecoderAgreesWithOpcodeTable : Prop :=
  ∀ (c : Config) (w : Word),
    (∀ i, decodeWord c w = .ok i → ∃ r ∈ opcodeTable, r.admits c w = true ∧ r.mnemonic = i.mnemonic) ∧
    (∀ r ∈ opcodeTable, r.admits c w = true → ∃ i, decodeWord c w = .ok i ∧ i.mnemonic = r.mnemonic)

/-- At most one row of the table matches a word (R83). -/
def Obligations.AtMostOneRowMatchesAWord : Prop :=
  ∀ (w : Word) (r1 r2 : OpcodeRow), r1 ∈ opcodeTable → r2 ∈ opcodeTable → r1.matches w = true → r2.matches w = true →
    r1 = r2

/-- A few words of the spec's own examples decode to the instructions it says. -/
def Obligations.ExampleWordsDecode : Prop :=
  decodeWord defaultConfig 0x8FA80004#32 = .ok (.lw 8#5 4#16 29#5) ∧
  decodeWord defaultConfig 0x02324022#32 = .ok (.sub 8#5 17#5 18#5) ∧
  decodeWord defaultConfig 0x00094103#32 = .ok (.sra 8#5 9#5 4#5) ∧
  decodeWord defaultConfig 0x2128FFFC#32 = .ok (.addi 8#5 9#5 0xFFFC#16) ∧
  decodeWord defaultConfig 0x1500FFFD#32 = .ok (.bne 8#5 0#5 0xFFFD#16) ∧
  decodeWord defaultConfig 0x40896800#32 = .ok (.mtc0 9#5 13#5 0#3) ∧
  decodeWord defaultConfig 0x0000004C#32 = .error .unusedField

/-! State and memory: 10_state.md, 20_memory.md. -/

/-- x[0] always reads as zero, and an instruction whose destination is x[0] writes no general register
(10_state.md R11; PRESUMED, GK1, log 27). -/
def Obligations.RegisterZeroReadsZeroAndDiscardsWrites : Prop :=
  (∀ s : State, s.readGpr 0#5 = 0#32) ∧
  ∀ (i : Instr) (s t : State), destination i = some 0#5 → exec i s = .next t → SameGprs s t

/-- The effective address, the branch target and the jump address, as exact sums taken modulo 2^32
(20_memory.md R42, 30_encoding.md R78, R79; the spec's decisions D28, D29, D30: log 29, 30). -/
def Obligations.AddressFormulasWrapModulo32 : Prop :=
  ∀ (s : State) (base : Reg) (off : Imm16) (target : Target26),
    ((s.effAddr base off).toNat : Int) = (((s.readGpr base).toNat : Int) + off.toInt) % 2 ^ 32 ∧
    ((s.branchTarget off).toNat : Int) = ((s.pc.toNat : Int) + 4 + 4 * off.toInt) % 2 ^ 32 ∧
    (s.jumpTarget target).toNat = (s.pc.toNat + 4) % 2 ^ 32 / 2 ^ 28 * 2 ^ 28 + 4 * target.toNat

/-- On a little-endian machine the byte at the lowest address is the least significant, for data and for fetch
(20_memory.md R43; the spec's decision D3, log 8). -/
def Obligations.LittleEndianByteOrder : Prop :=
  ∀ (s : State) (a v : Word), s.cfg.endian = .little →
    (s.memRead .byte a = .next v → v = (Memory.read s.mem a.toNat).setWidth 32) ∧
    (s.memRead .half a = .next v →
      v = (Memory.read s.mem (a.toNat + 1) ++ Memory.read s.mem a.toNat : BitVec 16).setWidth 32) ∧
    (s.memRead .word a = .next v → v = wordAt .little s.mem a.toNat) ∧
    (s.memFetch a = .next v → v = wordAt .little s.mem a.toNat) ∧
    (∀ (w : Width) (t : State), Memory.wf s.mem = true → s.memWrite w a v = .next t →
      ∀ i < w.bytes, Memory.read t.mem (a.toNat + i) = v.extractLsb' (8 * i) 8)

/-- After a word store, byte and halfword reads of the same place see exactly the bytes they cover, and a byte store
changes one byte only (20_memory.md R44). -/
def Obligations.MixedWidthAccessesSeeTheirBytes : Prop :=
  ∀ (s t : State) (a v : Word), s.cfg.endian = .little → Memory.wf s.mem = true →
    (s.memWrite .word a v = .next t → AllPlain s .load a 4 →
      (∀ k < 4, t.memRead .byte (a + BitVec.ofNat 32 k) = .next ((v.extractLsb' (8 * k) 8).setWidth 32)) ∧
      t.memRead .half a = .next ((v.extractLsb' 0 16).setWidth 32) ∧
      t.memRead .half (a + 2#32) = .next ((v.extractLsb' 16 16).setWidth 32)) ∧
    (s.memWrite .byte a v = .next t → ∀ b, Memory.read t.mem b =
      if b = a.toNat then v.extractLsb' 0 8 else Memory.read s.mem b) ∧
    (s.memWrite .half a v = .next t → ∀ b, b ≠ a.toNat → b ≠ a.toNat + 1 → Memory.read t.mem b = Memory.read s.mem b)

/-- The canonical form is canonical: two memories in it that read alike everywhere are equal as data. -/
def Obligations.CanonicalMemoriesThatReadAlikeAreEqual : Prop :=
  ∀ m1 m2 : Memory, Memory.wf m1 = true → Memory.wf m2 = true → (∀ a, Memory.read m1 a = Memory.read m2 a) → m1 = m2

/-! Loads and stores: 40_load_store.md. -/

/-- lw: opcode, result, and the two stops (R101, R100). The stops are the spec's decisions D4 and D6 (log 15, 6), the byte
order D3 (log 8). -/
def Obligations.LoadWord : Prop :=
  ∀ (rt base : Reg) (off : Imm16) (s : State),
    encode (.lw rt off base) &&& 0xFC000000#32 = 0x8C000000#32 ∧
    ((s.effAddr base off).toNat % 4 = 0 → AllPlain s .load (s.effAddr base off) 4 →
      ∃ t, exec (.lw rt off base) s = .next t ∧
        OnlyGprAndPc s t rt (wordAt s.cfg.endian s.mem (s.effAddr base off).toNat) (s.pc + 4#32)) ∧
    ((s.effAddr base off).toNat % 4 ≠ 0 → exec (.lw rt off base) s = .fault .misalignedAccess) ∧
    ((s.effAddr base off).toNat % 4 = 0 → SomeUnmapped s .load (s.effAddr base off) 4 →
      exec (.lw rt off base) s = .fault .unmappedAccess)

/-- lb and lbu at any address: sign-extended and zero-extended byte (R102, R103); the stop is the spec's decision D6
(log 6). -/
def Obligations.LoadByteSignedAndUnsigned : Prop :=
  ∀ (rt base : Reg) (off : Imm16) (s : State),
    encode (.lb rt off base) &&& 0xFC000000#32 = 0x80000000#32 ∧
    encode (.lbu rt off base) &&& 0xFC000000#32 = 0x90000000#32 ∧
    (AllPlain s .load (s.effAddr base off) 1 →
      (∃ t, exec (.lb rt off base) s = .next t ∧ OnlyGprAndPc s t rt
        (BitVec.ofInt 32 (Memory.read s.mem (s.effAddr base off).toNat).toInt) (s.pc + 4#32)) ∧
      (∃ t, exec (.lbu rt off base) s = .next t ∧ OnlyGprAndPc s t rt
        (BitVec.ofNat 32 (Memory.read s.mem (s.effAddr base off).toNat).toNat) (s.pc + 4#32))) ∧
    (SomeUnmapped s .load (s.effAddr base off) 1 →
      exec (.lb rt off base) s = .fault .unmappedAccess ∧ exec (.lbu rt off base) s = .fault .unmappedAccess)

/-- lh and lhu: sign-extended and zero-extended halfword, and the two stops (R104, R105). The stops are the spec's
decisions D4 and D6 (log 15, 6), the byte order D3 (log 8). -/
def Obligations.LoadHalfSignedAndUnsigned : Prop :=
  ∀ (rt base : Reg) (off : Imm16) (s : State),
    encode (.lh rt off base) &&& 0xFC000000#32 = 0x84000000#32 ∧
    encode (.lhu rt off base) &&& 0xFC000000#32 = 0x94000000#32 ∧
    ((s.effAddr base off).toNat % 2 = 0 → AllPlain s .load (s.effAddr base off) 2 →
      (∃ t, exec (.lh rt off base) s = .next t ∧ OnlyGprAndPc s t rt
        (BitVec.ofInt 32 (halfAt s.cfg.endian s.mem (s.effAddr base off).toNat).toInt) (s.pc + 4#32)) ∧
      (∃ t, exec (.lhu rt off base) s = .next t ∧ OnlyGprAndPc s t rt
        (BitVec.ofNat 32 (halfAt s.cfg.endian s.mem (s.effAddr base off).toNat).toNat) (s.pc + 4#32))) ∧
    ((s.effAddr base off).toNat % 2 ≠ 0 →
      exec (.lh rt off base) s = .fault .misalignedAccess ∧ exec (.lhu rt off base) s = .fault .misalignedAccess) ∧
    ((s.effAddr base off).toNat % 2 = 0 → SomeUnmapped s .load (s.effAddr base off) 2 →
      exec (.lh rt off base) s = .fault .unmappedAccess ∧ exec (.lhu rt off base) s = .fault .unmappedAccess)

/-- sw: opcode, the four bytes stored, the frame, and the two stops (R106, R100). The stops are the spec's decisions D4 and
D6 (log 15, 6), the byte order D3 (log 8). -/
def Obligations.StoreWord : Prop :=
  ∀ (rt base : Reg) (off : Imm16) (s : State), Memory.wf s.mem = true →
    encode (.sw rt off base) &&& 0xFC000000#32 = 0xAC000000#32 ∧
    ((s.effAddr base off).toNat % 4 = 0 → AllPlain s .store (s.effAddr base off) 4 →
      ∃ t, exec (.sw rt off base) s = .next t ∧ OnlyStored s t (s.effAddr base off) 4 ∧
        wordAt s.cfg.endian t.mem (s.effAddr base off).toNat = s.readGpr rt) ∧
    ((s.effAddr base off).toNat % 4 ≠ 0 → exec (.sw rt off base) s = .fault .misalignedAccess) ∧
    ((s.effAddr base off).toNat % 4 = 0 → SomeUnmapped s .store (s.effAddr base off) 4 →
      exec (.sw rt off base) s = .fault .unmappedAccess)

/-- sb and sh: opcode, the low byte or halfword stored, the frame, and the stops (R107, R108). The stops are the spec's
decisions D4 and D6 (log 15, 6), the byte order D3 (log 8). -/
def Obligations.StoreByteAndHalf : Prop :=
  ∀ (rt base : Reg) (off : Imm16) (s : State), Memory.wf s.mem = true →
    encode (.sb rt off base) &&& 0xFC000000#32 = 0xA0000000#32 ∧
    encode (.sh rt off base) &&& 0xFC000000#32 = 0xA4000000#32 ∧
    (AllPlain s .store (s.effAddr base off) 1 →
      ∃ t, exec (.sb rt off base) s = .next t ∧ OnlyStored s t (s.effAddr base off) 1 ∧
        Memory.read t.mem (s.effAddr base off).toNat = (s.readGpr rt).extractLsb' 0 8) ∧
    ((s.effAddr base off).toNat % 2 = 0 → AllPlain s .store (s.effAddr base off) 2 →
      ∃ t, exec (.sh rt off base) s = .next t ∧ OnlyStored s t (s.effAddr base off) 2 ∧
        halfAt s.cfg.endian t.mem (s.effAddr base off).toNat = (s.readGpr rt).extractLsb' 0 16) ∧
    ((s.effAddr base off).toNat % 2 ≠ 0 → exec (.sh rt off base) s = .fault .misalignedAccess) ∧
    (SomeUnmapped s .store (s.effAddr base off) 1 → exec (.sb rt off base) s = .fault .unmappedAccess) ∧
    ((s.effAddr base off).toNat % 2 = 0 → SomeUnmapped s .store (s.effAddr base off) 2 →
      exec (.sh rt off base) s = .fault .unmappedAccess)

/-- Where no byte of an access is outside MEM_MAP, a store to a read-only byte and a load, store or fetch of a device byte
stop under names of their own: the access itself, the instruction that makes it, and the step that fetches (the model's
choice, log 7: 00_scope.md R5 lets MEM_MAP name such bytes), the fetch also where a byte of the word was stored to (its
rank before FetchAfterStore is the model's choice too: log 7, log 17). -/
def Obligations.ReadOnlyAndDeviceAccessesStop : Prop :=
  (∀ (i : Instr) (s : State) (k : Access) (w : Width) (ea : Word), dataAccess s i = some (k, w, ea) →
    ea.toNat % w.bytes = 0 → ¬SomeUnmapped s k ea w.bytes →
    (k = .store → SomeReadOnly s ea w.bytes → exec i s = .fault .readOnlyStore) ∧
    (¬(k = .store ∧ SomeReadOnly s ea w.bytes) → SomeDevice s k ea w.bytes → exec i s = .refused .deviceAccess)) ∧
  (∀ s : State, s.latchIrq.interruptPending = false → s.pc.toNat % 4 = 0 → ¬SomeUnmapped s .fetch s.pc 4 →
    SomeDevice s .fetch s.pc 4 → step s = .refused .deviceAccess) ∧
  ∀ (s : State) (w : Width) (ea v : Word), ea.toNat % w.bytes = 0 →
    (¬SomeUnmapped s .load ea w.bytes → SomeDevice s .load ea w.bytes → s.memRead w ea = .refused .deviceAccess) ∧
    (¬SomeUnmapped s .store ea w.bytes → SomeReadOnly s ea w.bytes → s.memWrite w ea v = .fault .readOnlyStore) ∧
    (¬SomeUnmapped s .store ea w.bytes → ¬SomeReadOnly s ea w.bytes → SomeDevice s .store ea w.bytes →
      s.memWrite w ea v = .refused .deviceAccess)

/-- A load right after a store of the same width to the same place gives back what was stored (20_memory.md R53); to x[0]
it loads nothing (10_state.md R11). -/
def Obligations.LoadAfterStoreGivesTheStoredValue : Prop :=
  ∀ (rt rd base : Reg) (off : Imm16) (s : State), Memory.wf s.mem = true →
    ((s.effAddr base off).toNat % 4 = 0 → AllPlain s .store (s.effAddr base off) 4 →
      AllPlain s .load (s.effAddr base off) 4 →
      ∃ t u, exec (.sw rt off base) s = .next t ∧ exec (.lw rd off base) t = .next u ∧
        u.readGpr rd = if rd = 0#5 then 0#32 else s.readGpr rt) ∧
    ((s.effAddr base off).toNat % 2 = 0 → AllPlain s .store (s.effAddr base off) 2 →
      AllPlain s .load (s.effAddr base off) 2 →
      ∃ t u, exec (.sh rt off base) s = .next t ∧ exec (.lhu rd off base) t = .next u ∧
        (u.readGpr rd).toNat = if rd = 0#5 then 0 else (s.readGpr rt).toNat % 2 ^ 16) ∧
    (AllPlain s .store (s.effAddr base off) 1 → AllPlain s .load (s.effAddr base off) 1 →
      ∃ t u, exec (.sb rt off base) s = .next t ∧ exec (.lbu rd off base) t = .next u ∧
        (u.readGpr rd).toNat = if rd = 0#5 then 0 else (s.readGpr rt).toNat % 2 ^ 8)

/-! Register and immediate ALU instructions: 41_alu_r.md, 43_alu_i.md. -/

/-- add, sub, addi: the exact signed result if it fits 32 bits, else Overflow with EPC = pc and the destination not
written (R121, R123, R161, R137; 60_exceptions.md R253). The test is PRESUMED (GK8, log 26), the unwritten destination the
spec's decision D22 (log 26), the cleared IE D14 (log 21). -/
def Obligations.AddSubAddiWriteOrOverflow : Prop :=
  ∀ (rd rs rt : Reg) (imm : Imm16) (s : State),
    encode (.add rd rs rt) &&& 0xFC00003F#32 = 0x00000020#32 ∧
    encode (.sub rd rs rt) &&& 0xFC00003F#32 = 0x00000022#32 ∧
    encode (.addi rt rs imm) &&& 0xFC000000#32 = 0x20000000#32 ∧
    (-2 ^ 31 ≤ (s.readGpr rs).toInt + (s.readGpr rt).toInt → (s.readGpr rs).toInt + (s.readGpr rt).toInt < 2 ^ 31 →
      ∃ t, exec (.add rd rs rt) s = .next t ∧
        OnlyGprAndPc s t rd (BitVec.ofInt 32 ((s.readGpr rs).toInt + (s.readGpr rt).toInt)) (s.pc + 4#32)) ∧
    (¬(-2 ^ 31 ≤ (s.readGpr rs).toInt + (s.readGpr rt).toInt ∧ (s.readGpr rs).toInt + (s.readGpr rt).toInt < 2 ^ 31) →
      ∃ t, exec (.add rd rs rt) s = .next t ∧ ExceptionEntry s t s.cfg.excOv false s.pc) ∧
    (-2 ^ 31 ≤ (s.readGpr rs).toInt - (s.readGpr rt).toInt → (s.readGpr rs).toInt - (s.readGpr rt).toInt < 2 ^ 31 →
      ∃ t, exec (.sub rd rs rt) s = .next t ∧
        OnlyGprAndPc s t rd (BitVec.ofInt 32 ((s.readGpr rs).toInt - (s.readGpr rt).toInt)) (s.pc + 4#32)) ∧
    (¬(-2 ^ 31 ≤ (s.readGpr rs).toInt - (s.readGpr rt).toInt ∧ (s.readGpr rs).toInt - (s.readGpr rt).toInt < 2 ^ 31) →
      ∃ t, exec (.sub rd rs rt) s = .next t ∧ ExceptionEntry s t s.cfg.excOv false s.pc) ∧
    (-2 ^ 31 ≤ (s.readGpr rs).toInt + imm.toInt → (s.readGpr rs).toInt + imm.toInt < 2 ^ 31 →
      ∃ t, exec (.addi rt rs imm) s = .next t ∧
        OnlyGprAndPc s t rt (BitVec.ofInt 32 ((s.readGpr rs).toInt + imm.toInt)) (s.pc + 4#32)) ∧
    (¬(-2 ^ 31 ≤ (s.readGpr rs).toInt + imm.toInt ∧ (s.readGpr rs).toInt + imm.toInt < 2 ^ 31) →
      ∃ t, exec (.addi rt rs imm) s = .next t ∧ ExceptionEntry s t s.cfg.excOv false s.pc)

/-- addu, subu, addiu: the sum or difference modulo 2^32, never an exception (R122, R124, R162). -/
def Obligations.UnsignedAddSubWrap : Prop :=
  ∀ (rd rs rt : Reg) (imm : Imm16) (s : State),
    encode (.addu rd rs rt) &&& 0xFC00003F#32 = 0x00000021#32 ∧
    encode (.subu rd rs rt) &&& 0xFC00003F#32 = 0x00000023#32 ∧
    encode (.addiu rt rs imm) &&& 0xFC000000#32 = 0x24000000#32 ∧
    (∃ v t, exec (.addu rd rs rt) s = .next t ∧ OnlyGprAndPc s t rd v (s.pc + 4#32) ∧
      v.toNat = ((s.readGpr rs).toNat + (s.readGpr rt).toNat) % 2 ^ 32) ∧
    (∃ v t, exec (.subu rd rs rt) s = .next t ∧ OnlyGprAndPc s t rd v (s.pc + 4#32) ∧
      (v.toNat : Int) = ((s.readGpr rs).toNat - (s.readGpr rt).toNat : Int) % 2 ^ 32) ∧
    (∃ v t, exec (.addiu rt rs imm) s = .next t ∧ OnlyGprAndPc s t rt v (s.pc + 4#32) ∧
      (v.toNat : Int) = ((s.readGpr rs).toNat + imm.toInt : Int) % 2 ^ 32)

/-- slt, slti compare as signed and sltu, sltiu as unsigned integers, and write 1 or 0 (R125, R126, R167, R168). -/
def Obligations.SetOnLessThan : Prop :=
  ∀ (rd rs rt : Reg) (imm : Imm16) (s : State),
    encode (.slt rd rs rt) &&& 0xFC00003F#32 = 0x0000002A#32 ∧
    encode (.sltu rd rs rt) &&& 0xFC00003F#32 = 0x0000002B#32 ∧
    encode (.slti rt rs imm) &&& 0xFC000000#32 = 0x28000000#32 ∧
    encode (.sltiu rt rs imm) &&& 0xFC000000#32 = 0x2C000000#32 ∧
    (∃ t, exec (.slt rd rs rt) s = .next t ∧
      OnlyGprAndPc s t rd (if (s.readGpr rs).toInt < (s.readGpr rt).toInt then 1#32 else 0#32) (s.pc + 4#32)) ∧
    (∃ t, exec (.sltu rd rs rt) s = .next t ∧
      OnlyGprAndPc s t rd (if (s.readGpr rs).toNat < (s.readGpr rt).toNat then 1#32 else 0#32) (s.pc + 4#32)) ∧
    (∃ t, exec (.slti rt rs imm) s = .next t ∧
      OnlyGprAndPc s t rt (if (s.readGpr rs).toInt < imm.toInt then 1#32 else 0#32) (s.pc + 4#32)) ∧
    (∃ t, exec (.sltiu rt rs imm) s = .next t ∧ OnlyGprAndPc s t rt
      (if (s.readGpr rs).toNat < (if imm.toNat < 2 ^ 15 then imm.toNat else imm.toNat + 0xFFFF0000) then 1#32
        else 0#32) (s.pc + 4#32))

/-- and, or, xor, nor, bit by bit (R127 to R130). -/
def Obligations.RegisterLogicBitByBit : Prop :=
  ∀ (rd rs rt : Reg) (s : State),
    encode (.and rd rs rt) &&& 0xFC00003F#32 = 0x00000024#32 ∧
    encode (.or rd rs rt) &&& 0xFC00003F#32 = 0x00000025#32 ∧
    encode (.xor rd rs rt) &&& 0xFC00003F#32 = 0x00000026#32 ∧
    encode (.nor rd rs rt) &&& 0xFC00003F#32 = 0x00000027#32 ∧
    (∃ v t, exec (.and rd rs rt) s = .next t ∧ OnlyGprAndPc s t rd v (s.pc + 4#32) ∧
      ∀ k < 32, v.getLsbD k = ((s.readGpr rs).getLsbD k && (s.readGpr rt).getLsbD k)) ∧
    (∃ v t, exec (.or rd rs rt) s = .next t ∧ OnlyGprAndPc s t rd v (s.pc + 4#32) ∧
      ∀ k < 32, v.getLsbD k = ((s.readGpr rs).getLsbD k || (s.readGpr rt).getLsbD k)) ∧
    (∃ v t, exec (.xor rd rs rt) s = .next t ∧ OnlyGprAndPc s t rd v (s.pc + 4#32) ∧
      ∀ k < 32, v.getLsbD k = ((s.readGpr rs).getLsbD k != (s.readGpr rt).getLsbD k)) ∧
    (∃ v t, exec (.nor rd rs rt) s = .next t ∧ OnlyGprAndPc s t rd v (s.pc + 4#32) ∧
      ∀ k < 32, v.getLsbD k = !((s.readGpr rs).getLsbD k || (s.readGpr rt).getLsbD k))

/-- slt, sltu, and, or, xor, nor into a destination other than x[0], as 41_alu_r.md R125 to R130 state them: the code, the
value, and no exception, so that CP0 is as before. (x[0] as a destination: SetOnLessThan, RegisterLogicBitByBit and
RegisterZeroReadsZeroAndDiscardsWrites.) -/
def Obligations.CompareAndLogicWriteTheirValue : Prop :=
  ∀ (rd rs rt : Reg) (s : State), rd ≠ 0#5 → ∀ (i : Instr) (code v : Word),
    (i, code, v) ∈
      [(Instr.slt rd rs rt, 0x2A#32, if (s.readGpr rs).toInt < (s.readGpr rt).toInt then 1#32 else 0#32),
        (.sltu rd rs rt, 0x2B#32, if (s.readGpr rs).toNat < (s.readGpr rt).toNat then 1#32 else 0#32),
        (.and rd rs rt, 0x24#32, s.readGpr rs &&& s.readGpr rt),
        (.or rd rs rt, 0x25#32, s.readGpr rs ||| s.readGpr rt),
        (.xor rd rs rt, 0x26#32, s.readGpr rs ^^^ s.readGpr rt),
        (.nor rd rs rt, 0x27#32, ~~~(s.readGpr rs ||| s.readGpr rt))] →
    encode i &&& 0xFC00003F#32 = code ∧ ∃ t, exec i s = .next t ∧ t.readGpr rd = v ∧ SameCp0 s t

/-- andi, ori, xori, bit by bit with the upper half of the immediate zero, and lui (R163 to R166). -/
def Obligations.ImmediateLogicBitByBit : Prop :=
  ∀ (rt rs : Reg) (imm : Imm16) (s : State),
    encode (.andi rt rs imm) &&& 0xFC000000#32 = 0x30000000#32 ∧
    encode (.ori rt rs imm) &&& 0xFC000000#32 = 0x34000000#32 ∧
    encode (.xori rt rs imm) &&& 0xFC000000#32 = 0x38000000#32 ∧
    encode (.lui rt imm) &&& 0xFC000000#32 = 0x3C000000#32 ∧
    (∃ v t, exec (.andi rt rs imm) s = .next t ∧ OnlyGprAndPc s t rt v (s.pc + 4#32) ∧
      ∀ k < 32, v.getLsbD k = (decide (k < 16) && (s.readGpr rs).getLsbD k && imm.getLsbD k)) ∧
    (∃ v t, exec (.ori rt rs imm) s = .next t ∧ OnlyGprAndPc s t rt v (s.pc + 4#32) ∧
      ∀ k < 32, v.getLsbD k = ((s.readGpr rs).getLsbD k || (decide (k < 16) && imm.getLsbD k))) ∧
    (∃ v t, exec (.xori rt rs imm) s = .next t ∧ OnlyGprAndPc s t rt v (s.pc + 4#32) ∧
      ∀ k < 32, v.getLsbD k = ((s.readGpr rs).getLsbD k != (decide (k < 16) && imm.getLsbD k))) ∧
    (∃ t, exec (.lui rt imm) s = .next t ∧
      OnlyGprAndPc s t rt (BitVec.ofNat 32 (imm.toNat * 2 ^ 16)) (s.pc + 4#32))

/-- sll, srl, sra as arithmetic on the values: times, floor-divided as unsigned, floor-divided as signed by 2^sa
(R131 to R133). -/
def Obligations.ShiftsByImmediate : Prop :=
  ∀ (rd rt : Reg) (sa : Shamt) (s : State),
    encode (.sll rd rt sa) &&& 0xFC00003F#32 = 0x00000000#32 ∧
    encode (.srl rd rt sa) &&& 0xFC00003F#32 = 0x00000002#32 ∧
    encode (.sra rd rt sa) &&& 0xFC00003F#32 = 0x00000003#32 ∧
    (∃ v t, exec (.sll rd rt sa) s = .next t ∧ OnlyGprAndPc s t rd v (s.pc + 4#32) ∧
      v.toNat = (s.readGpr rt).toNat * 2 ^ sa.toNat % 2 ^ 32) ∧
    (∃ v t, exec (.srl rd rt sa) s = .next t ∧ OnlyGprAndPc s t rd v (s.pc + 4#32) ∧
      v.toNat = (s.readGpr rt).toNat / 2 ^ sa.toNat) ∧
    (∃ v t, exec (.sra rd rt sa) s = .next t ∧ OnlyGprAndPc s t rd v (s.pc + 4#32) ∧
      v.toInt = (s.readGpr rt).toInt / 2 ^ sa.toNat)

/-- sllv, srlv, srav shift by the low five bits of x[rs] (R134 to R136); encodings and count are PRESUMED (GK4, GK9,
log 9). -/
def Obligations.VariableShifts : Prop :=
  ∀ (rd rt rs : Reg) (s : State),
    encode (.sllv rd rt rs) &&& 0xFC00003F#32 = 0x00000004#32 ∧
    encode (.srlv rd rt rs) &&& 0xFC00003F#32 = 0x00000006#32 ∧
    encode (.srav rd rt rs) &&& 0xFC00003F#32 = 0x00000007#32 ∧
    (∃ v t, exec (.sllv rd rt rs) s = .next t ∧ OnlyGprAndPc s t rd v (s.pc + 4#32) ∧
      v.toNat = (s.readGpr rt).toNat * 2 ^ ((s.readGpr rs).toNat % 32) % 2 ^ 32) ∧
    (∃ v t, exec (.srlv rd rt rs) s = .next t ∧ OnlyGprAndPc s t rd v (s.pc + 4#32) ∧
      v.toNat = (s.readGpr rt).toNat / 2 ^ ((s.readGpr rs).toNat % 32)) ∧
    (∃ v t, exec (.srav rd rt rs) s = .next t ∧ OnlyGprAndPc s t rd v (s.pc + 4#32) ∧
      v.toInt = (s.readGpr rt).toInt / 2 ^ ((s.readGpr rs).toNat % 32))

/-! Multiply and divide: 42_muldiv.md. -/

/-- mult and multu: HI and LO hold the exact signed and unsigned product (R151, R152). The signedness is PRESUMED (GK6,
log 25), mult's code the choice of 90_conflicts.md C1 (log 31). -/
def Obligations.MultiplyIsExact : Prop :=
  ∀ (rs rt : Reg) (s : State),
    encode (.mult rs rt) &&& 0xFC00003F#32 = 0x00000018#32 ∧
    encode (.multu rs rt) &&& 0xFC00003F#32 = 0x00000019#32 ∧
    (∃ t, exec (.mult rs rt) s = .next t ∧ OnlyHiLo s t ∧
      t.hi.toInt * 2 ^ 32 + (t.lo.toNat : Int) = (s.readGpr rs).toInt * (s.readGpr rt).toInt) ∧
    (∃ t, exec (.multu rs rt) s = .next t ∧ OnlyHiLo s t ∧
      t.hi.toNat * 2 ^ 32 + t.lo.toNat = (s.readGpr rs).toNat * (s.readGpr rt).toNat)

/-- div and divu: LO the quotient, truncated toward zero, HI the remainder, with the dividend's sign or zero; where the
spec leaves the result unspecified they still complete, raise no exception and change nothing but HI, LO and pc
(42_muldiv.md R153, R154). Which register holds what, and the truncation, are PRESUMED (GK5, log 25); the free values are
the spec's decision D26 (log 24). -/
def Obligations.DivideGivesQuotientAndRemainder : Prop :=
  ∀ (rs rt : Reg) (s : State),
    encode (.div rs rt) &&& 0xFC00003F#32 = 0x0000001A#32 ∧
    encode (.divu rs rt) &&& 0xFC00003F#32 = 0x0000001B#32 ∧
    (s.readGpr rt ≠ 0#32 → ¬(s.readGpr rs = 0x80000000#32 ∧ s.readGpr rt = 0xFFFFFFFF#32) →
      ∃ t, exec (.div rs rt) s = .next t ∧ OnlyHiLo s t ∧
        (s.readGpr rs).toInt = t.lo.toInt * (s.readGpr rt).toInt + t.hi.toInt ∧
        t.hi.toInt.natAbs < (s.readGpr rt).toInt.natAbs ∧
        (0 ≤ (s.readGpr rs).toInt → 0 ≤ t.hi.toInt) ∧ ((s.readGpr rs).toInt ≤ 0 → t.hi.toInt ≤ 0)) ∧
    (s.readGpr rt = 0#32 ∨ s.readGpr rs = 0x80000000#32 ∧ s.readGpr rt = 0xFFFFFFFF#32 →
      ∃ t, exec (.div rs rt) s = .next t ∧ OnlyHiLo s t) ∧
    (s.readGpr rt ≠ 0#32 → ∃ t, exec (.divu rs rt) s = .next t ∧ OnlyHiLo s t ∧
      (s.readGpr rs).toNat = t.lo.toNat * (s.readGpr rt).toNat + t.hi.toNat ∧
      t.hi.toNat < (s.readGpr rt).toNat) ∧
    (s.readGpr rt = 0#32 → ∃ t, exec (.divu rs rt) s = .next t ∧ OnlyHiLo s t)

/-! Branches and jumps: 44_branch.md, 45_jump.md. -/

/-- The six branches: the target `pc + 4 + 4 * offset` if the condition holds, else `pc + 4`; nothing else changes
(R180 to R186; the spec's decisions D2 and D29: log 14, 30). -/
def Obligations.ConditionalBranches : Prop :=
  ∀ (rs rt : Reg) (off : Imm16) (s : State) (target : Word),
    target = s.pc + 4#32 + BitVec.ofInt 32 (4 * off.toInt) →
    (encode (.beq rs rt off) &&& 0xFC000000#32 = 0x10000000#32 ∧
      encode (.bne rs rt off) &&& 0xFC000000#32 = 0x14000000#32 ∧
      encode (.blez rs off) &&& 0xFC000000#32 = 0x18000000#32 ∧
      encode (.bgtz rs off) &&& 0xFC000000#32 = 0x1C000000#32 ∧
      encode (.bltz rs off) &&& 0xFC1F0000#32 = 0x04000000#32 ∧
      encode (.bgez rs off) &&& 0xFC1F0000#32 = 0x04010000#32) ∧
    (∃ t, exec (.beq rs rt off) s = .next t ∧
      OnlyPc s t (if s.readGpr rs = s.readGpr rt then target else s.pc + 4#32)) ∧
    (∃ t, exec (.bne rs rt off) s = .next t ∧
      OnlyPc s t (if s.readGpr rs ≠ s.readGpr rt then target else s.pc + 4#32)) ∧
    (∃ t, exec (.blez rs off) s = .next t ∧
      OnlyPc s t (if s.readGpr rs = 0#32 ∨ (s.readGpr rs).getLsbD 31 = true then target else s.pc + 4#32)) ∧
    (∃ t, exec (.bgtz rs off) s = .next t ∧
      OnlyPc s t (if (s.readGpr rs).getLsbD 31 = false ∧ s.readGpr rs ≠ 0#32 then target else s.pc + 4#32)) ∧
    (∃ t, exec (.bltz rs off) s = .next t ∧
      OnlyPc s t (if (s.readGpr rs).getLsbD 31 = true then target else s.pc + 4#32)) ∧
    (∃ t, exec (.bgez rs off) s = .next t ∧
      OnlyPc s t (if (s.readGpr rs).getLsbD 31 = false then target else s.pc + 4#32))

/-- bgezal and bltzal write `pc + 4` to x[31] whether or not they branch, and test the old x[rs] (R187, R188; PRESUMED and
the spec's decision D34: log 28). -/
def Obligations.LinkingBranches : Prop :=
  ∀ (rs : Reg) (off : Imm16) (s : State) (target : Word),
    target = s.pc + 4#32 + BitVec.ofInt 32 (4 * off.toInt) →
    encode (.bgezal rs off) &&& 0xFC1F0000#32 = 0x04110000#32 ∧
    encode (.bltzal rs off) &&& 0xFC1F0000#32 = 0x04100000#32 ∧
    (∃ t, exec (.bgezal rs off) s = .next t ∧ OnlyGprAndPc s t 31#5 (s.pc + 4#32)
      (if (s.readGpr rs).getLsbD 31 = false then target else s.pc + 4#32)) ∧
    (∃ t, exec (.bltzal rs off) s = .next t ∧ OnlyGprAndPc s t 31#5 (s.pc + 4#32)
      (if (s.readGpr rs).getLsbD 31 = true then target else s.pc + 4#32))

/-- j and jal go to the target field times four in the 256 MB region of `pc + 4`, jalr and jr to the old value of x[rs];
jal links to x[31], and jalr then to x[rd], also when rd is rs or 0 (R201 to R204; the spec's decisions D2 and D30: log 14,
30; the case rd = rs is its decision D31, log 36). -/
def Obligations.JumpsAndTheirLinks : Prop :=
  (∀ (target : Target26) (s : State) (a : Word),
    a = BitVec.ofNat 32 ((s.pc + 4#32).toNat / 2 ^ 28 * 2 ^ 28 + target.toNat * 4) →
    encode (.j target) &&& 0xFC000000#32 = 0x08000000#32 ∧
    encode (.jal target) &&& 0xFC000000#32 = 0x0C000000#32 ∧
    (∃ t, exec (.j target) s = .next t ∧ OnlyPc s t a) ∧
    (∃ t, exec (.jal target) s = .next t ∧ OnlyGprAndPc s t 31#5 (s.pc + 4#32) a)) ∧
  ∀ (rd rs : Reg) (s : State),
    encode (.jalr rd rs) &&& 0xFC00003F#32 = 0x00000009#32 ∧
    encode (.jr rs) &&& 0xFC00003F#32 = 0x00000008#32 ∧
    (∃ t, exec (.jalr rd rs) s = .next t ∧ OnlyGprAndPc s t rd (s.pc + 4#32) (s.readGpr rs)) ∧
    (∃ t, exec (.jr rs) s = .next t ∧ OnlyPc s t (s.readGpr rs))

/-! HI/LO transfers: 46_hilo_move.md. -/

/-- mfhi and mflo copy HI or LO to x[rd]; mthi and mtlo copy x[rs] to one of them and leave the other (R211 to R214). -/
def Obligations.HiLoTransfers : Prop :=
  ∀ (r : Reg) (s : State),
    (encode (.mfhi r) &&& 0xFC00003F#32 = 0x00000010#32 ∧ encode (.mflo r) &&& 0xFC00003F#32 = 0x00000012#32 ∧
      encode (.mthi r) &&& 0xFC00003F#32 = 0x00000011#32 ∧ encode (.mtlo r) &&& 0xFC00003F#32 = 0x00000013#32) ∧
    (∃ t, exec (.mfhi r) s = .next t ∧ OnlyGprAndPc s t r s.hi (s.pc + 4#32)) ∧
    (∃ t, exec (.mflo r) s = .next t ∧ OnlyGprAndPc s t r s.lo (s.pc + 4#32)) ∧
    (∃ t, exec (.mthi r) s = .next t ∧ OnlyHiLo s t ∧ t.hi = s.readGpr r ∧ t.lo = s.lo) ∧
    (∃ t, exec (.mtlo r) s = .next t ∧ OnlyHiLo s t ∧ t.lo = s.readGpr r ∧ t.hi = s.hi)

/-! CP0 access, traps and exception return: 47_cp0_privileged.md, 48_trap.md, 60_exceptions.md. -/

/-- mfc0 reads Status, Cause or EPC, the reserved bits of the first two being any value, and stops for every other
register number or a selector; without STRICT_DECODE bits 10:3 of its word are ignored (47_cp0_privileged.md R222). The
reserved bits are the spec's decision D12 (log 19), the stop D23 (log 18). -/
def Obligations.MoveFromCp0 : Prop :=
  ∀ (rt rd : Reg) (sel : BitVec 3) (s : State),
    encode (.mfc0 rt rd sel) &&& 0xFFE00000#32 = 0x40000000#32 ∧
    (∀ (c : Config) (w : Word), c.strictDecode = false → w &&& 0xFFE00000#32 = 0x40000000#32 →
      decodeWord c w = .ok (.mfc0 (w.extractLsb' 16 5) (w.extractLsb' 11 5) (w.extractLsb' 0 3))) ∧
    (∃ v t, exec (.mfc0 rt 12#5 0#3) s = .next t ∧ OnlyGprAndPc s t rt v (s.pc + 4#32) ∧
      v &&& statusMask s.cfg = s.status &&& statusMask s.cfg) ∧
    (∃ v t, exec (.mfc0 rt 13#5 0#3) s = .next t ∧ OnlyGprAndPc s t rt v (s.pc + 4#32) ∧
      v &&& causeMask s.cfg = s.cause &&& causeMask s.cfg) ∧
    (∃ t, exec (.mfc0 rt 14#5 0#3) s = .next t ∧ OnlyGprAndPc s t rt s.epc (s.pc + 4#32)) ∧
    (rd ≠ 12#5 ∧ rd ≠ 13#5 ∧ rd ≠ 14#5 ∨ sel ≠ 0#3 →
      exec (.mfc0 rt rd sel) s = .fault .unimplementedCp0Register)

/-- mtc0 writes every defined field of Status or Cause, ignores the reserved bits, writes the whole of EPC, and stops for
every other register number, whatever the selector is; without STRICT_DECODE bits 10:0 of its word may be anything
(47_cp0_privileged.md R223; the spec's decisions D10, D12, D19, D23: log 10, 19, 32, 18). -/
def Obligations.MoveToCp0 : Prop :=
  ∀ (rt rd : Reg) (sel : BitVec 3) (s : State),
    encode (.mtc0 rt rd sel) &&& 0xFFE00000#32 = 0x40800000#32 ∧
    (∀ (c : Config) (w : Word), c.strictDecode = false → w &&& 0xFFE00000#32 = 0x40800000#32 →
      decodeWord c w = .ok (.mtc0 (w.extractLsb' 16 5) (w.extractLsb' 11 5) (w.extractLsb' 0 3))) ∧
    (∃ t, exec (.mtc0 rt 12#5 sel) s = .next t ∧ t.ie = (s.readGpr rt).getLsbD (cellIndex s.cfg.ieBit) ∧
      t.im = (s.readGpr rt).extractLsb' 9 20 ∧
      (∀ k, (statusMask s.cfg).getLsbD k = false → t.status.getLsbD k = s.status.getLsbD k) ∧
      t.pc = s.pc + 4#32 ∧ t.cause = s.cause ∧ t.epc = s.epc ∧
      SameGprs s t ∧ SameHiLo s t ∧ SameMemory s t ∧ SameInputs s t) ∧
    (∃ t, exec (.mtc0 rt 13#5 sel) s = .next t ∧ t.br = (s.readGpr rt).getLsbD (cellIndex s.cfg.brBit) ∧
      t.ip = (s.readGpr rt).extractLsb' 9 20 ∧ t.exc = (s.readGpr rt).extractLsb' 2 5 ∧
      (∀ k, (causeMask s.cfg).getLsbD k = false → t.cause.getLsbD k = s.cause.getLsbD k) ∧
      t.pc = s.pc + 4#32 ∧ t.status = s.status ∧ t.epc = s.epc ∧
      SameGprs s t ∧ SameHiLo s t ∧ SameMemory s t ∧ SameInputs s t) ∧
    (∃ t, exec (.mtc0 rt 14#5 sel) s = .next t ∧ t.epc = s.readGpr rt ∧ t.pc = s.pc + 4#32 ∧
      t.status = s.status ∧ t.cause = s.cause ∧ SameGprs s t ∧ SameHiLo s t ∧ SameMemory s t ∧ SameInputs s t) ∧
    (rd ≠ 12#5 ∧ rd ≠ 13#5 ∧ rd ≠ 14#5 → exec (.mtc0 rt rd sel) s = .fault .unimplementedCp0Register)

/-- eret goes to EPC whatever its alignment and sets IE; BR and EXC may take any value, and nothing else changes
(R221; the spec's decisions D14 and D15, log 20). -/
def Obligations.ExceptionReturn : Prop :=
  ∀ s : State, encode .eret = 0x42000018#32 ∧
    ∃ t, exec .eret s = .next t ∧ t.pc = s.epc ∧ t.ie = true ∧ t.epc = s.epc ∧ OnlyExceptionState s t

/-- break and syscall take their exception whatever IE holds, with EPC = pc + 4 and BR = 0 (R231, R232;
60_exceptions.md R262); the cleared IE is the spec's decision D14 (log 21). -/
def Obligations.BreakAndSyscallTrap : Prop :=
  ∀ s : State, encode .brk = 0x0000000D#32 ∧ encode .syscall = 0x0000000C#32 ∧
    (∃ t, exec .brk s = .next t ∧ ExceptionEntry s t s.cfg.excBp false (s.pc + 4#32)) ∧
    (∃ t, exec .syscall s = .next t ∧ ExceptionEntry s t s.cfg.excSys false (s.pc + 4#32))

/-- A trap instruction and then eret resume after the trap with the program's registers and memory as they were and
interrupts enabled (48_trap.md R230, 60_exceptions.md R264; the spec's decision D14: log 20, 21). -/
def Obligations.TrapThenReturnResumesAfterIt : Prop :=
  ∀ (i : Instr) (s : State), i = .syscall ∨ i = .brk →
    ∃ t u, exec i s = .next t ∧ exec .eret t = .next u ∧ u.pc = s.pc + 4#32 ∧ u.ie = true ∧ u.im = s.im ∧ u.ip = s.ip ∧
      SameGprs s u ∧ SameHiLo s u ∧ SameMemory s u

/-- An overflowing add and then eret come back to the add, which overflows again (60_exceptions.md R253, R260;
the spec's decision D22, log 26). -/
def Obligations.OverflowThenReturnOverflowsAgain : Prop :=
  ∀ (rd rs rt : Reg) (s : State),
    ¬(-2 ^ 31 ≤ (s.readGpr rs).toInt + (s.readGpr rt).toInt ∧ (s.readGpr rs).toInt + (s.readGpr rt).toInt < 2 ^ 31) →
    ∃ t u w, exec (.add rd rs rt) s = .next t ∧ exec .eret t = .next u ∧ u.pc = s.pc ∧ SameGprs s u ∧
      exec (.add rd rs rt) u = .next w ∧ w.pc = s.cfg.excVector ∧ w.epc = s.pc

/-- A value written by mtc0 is there for the very next instruction: mfc0 reads it back (into x[0]: nothing,
10_state.md R11), and eret jumps to it (70_reset_and_hazards.md R311; the spec's decisions D33 and D12: log 35, 19). -/
def Obligations.Cp0WritesAreSeenAtOnce : Prop :=
  ∀ (rt rd : Reg) (sel : BitVec 3) (s : State),
    (∃ t u, exec (.mtc0 rt 12#5 sel) s = .next t ∧ exec (.mfc0 rd 12#5 0#3) t = .next u ∧
      u.readGpr rd &&& statusMask s.cfg = if rd = 0#5 then 0#32 else s.readGpr rt &&& statusMask s.cfg) ∧
    (∃ t u, exec (.mtc0 rt 13#5 sel) s = .next t ∧ exec (.mfc0 rd 13#5 0#3) t = .next u ∧
      u.readGpr rd &&& causeMask s.cfg = if rd = 0#5 then 0#32 else s.readGpr rt &&& causeMask s.cfg) ∧
    (∃ t u, exec (.mtc0 rt 14#5 sel) s = .next t ∧ exec (.mfc0 rd 14#5 0#3) t = .next u ∧
      u.readGpr rd = if rd = 0#5 then 0#32 else s.readGpr rt) ∧
    (∃ t u, exec (.mtc0 rt 14#5 sel) s = .next t ∧ exec .eret t = .next u ∧ u.pc = s.readGpr rt)

/-! The step: 10_state.md R29, 60_exceptions.md R257 to R263. -/

/-- With no interrupt and no timer signal to take, and a fetchable word at pc that decodes to `i`, the step is the meaning of `i` in the state
with the environment's requests latched. -/
def Obligations.StepRunsTheDecodedInstruction : Prop :=
  ∀ (s : State) (i : Instr), s.latchIrq.interruptPending = false → s.timerSignal = none → s.pc.toNat % 4 = 0 →
    AllPlain s .fetch s.pc 4 → (∀ j < 4, s.pc.toNat + j ∉ s.stored) → decodeWord s.cfg (wordAt s.cfg.endian s.mem s.pc.toNat) = .ok i →
    step s = exec i s.latchIrq

/-- An interrupt that is enabled and pending is taken before the instruction at pc, with EPC = pc, and before all else;
with none to take and no timer signal the step fetches and executes (60_exceptions.md R257, R259; the spec's decisions D20,
D21 and D14: log 23, 33, 21). With no interrupt to take, the signal of a timer, if the platform has one, raises its
exception with the platform's code in place of the instruction fetched and decoded, whatever IE holds: the model's choice
over R272 (log 38). -/
def Obligations.InterruptIsTakenBeforeTheInstruction : Prop :=
  ∀ s : State,
    (s.latchIrq.ie = true → s.latchIrq.im &&& s.latchIrq.ip ≠ 0#20 →
      ∃ t br, step s = .next t ∧ ExceptionEntry s.latchIrq t s.cfg.excInt br s.pc) ∧
    (¬(s.latchIrq.ie = true ∧ s.latchIrq.im &&& s.latchIrq.ip ≠ 0#20) →
      (s.cfg.timer = none ∨ s.ticks.head? ≠ some true →
        step s = andThen s.latchIrq.fetchInstr fun i => exec i s.latchIrq) ∧
      (∀ code i, s.cfg.timer = some code → s.ticks.head? = some true → s.latchIrq.fetchInstr = .next i →
        ∃ t br, step s = .next t ∧ ExceptionEntry s.latchIrq t code br s.pc))

/-- At an interrupt, and likewise at a timer's signal (log 38), BR is 1 exactly if the word at pc can be fetched and is a branch or a jump (60_exceptions.md R263, the
spec's decision D16); that a word a store has touched counts as one that cannot be fetched is DEDUCED (log 22). Where the
word lies in MEM_MAP and touches a device, whose content the spec leaves to the platform, BR is free (log 22). -/
def Obligations.InterruptRecordsABranchVictim : Prop :=
  ∀ (s t : State) (e : Exc), StepTakes s e → step s = .next t →
    ¬(s.pc.toNat % 4 = 0 ∧ ¬SomeUnmapped s .fetch s.pc 4 ∧ SomeDevice s .fetch s.pc 4) →
    (t.br = true ↔ s.pc.toNat % 4 = 0 ∧ AllPlain s .fetch s.pc 4 ∧ (∀ j < 4, s.pc.toNat + j ∉ s.stored) ∧
      ∃ i, decodeWord s.cfg (wordAt s.cfg.endian s.mem s.pc.toNat) = .ok i ∧
        i.mnemonic ∈ ["beq", "bne", "blez", "bgtz", "bltz", "bgez", "bgezal", "bltzal", "j", "jal", "jalr", "jr"])

/-- The faults of the fetch in their order, when no interrupt is taken (60_exceptions.md R259, R277; the spec's decisions
D5, D6, D8: log 15, 6, 17). A timer's signal comes after them (log 38). -/
def Obligations.FetchFaultsInOrder : Prop :=
  ∀ s : State, s.latchIrq.interruptPending = false →
    (s.pc.toNat % 4 ≠ 0 → step s = .fault .misalignedFetch) ∧
    (s.pc.toNat % 4 = 0 → SomeUnmapped s .fetch s.pc 4 → step s = .fault .unmappedAccess) ∧
    (s.pc.toNat % 4 = 0 → AllPlain s .fetch s.pc 4 → (∃ j < 4, s.pc.toNat + j ∈ s.stored) →
      step s = .fault .fetchAfterStore)

/-- A word that no row of the opcode table admits is the fault UndefinedInstruction, not an exception: also the
historical words when HIST_INSTRS is false, and under STRICT_DECODE words with unused fields not zero
(30_encoding.md R85; the spec's decisions D9 and D10: log 16, 10). -/
def Obligations.UnadmittedWordsAreUndefined : Prop :=
  ∀ s : State, s.latchIrq.interruptPending = false → s.pc.toNat % 4 = 0 → AllPlain s .fetch s.pc 4 →
    (∀ j < 4, s.pc.toNat + j ∉ s.stored) →
    (∀ r ∈ opcodeTable, r.admits s.cfg (wordAt s.cfg.endian s.mem s.pc.toNat) = false) →
    step s = .fault .undefinedInstruction

/-- At a step boundary the asserted lines set their IP bits, and nothing else of the machine changes (10_state.md R28);
that the coming requests and the timer's coming signals are lists in the state is the model's choice (log 23, 38). -/
def Obligations.RequestsSetPendingBits : Prop :=
  ∀ (s : State) (l : Lines) (rest : List Lines), s.irq = l :: rest →
    s.latchIrq.ip = s.ip ||| l ∧ s.latchIrq.br = s.br ∧ s.latchIrq.exc = s.exc ∧ s.latchIrq.status = s.status ∧
    s.latchIrq.epc = s.epc ∧ s.latchIrq.pc = s.pc ∧ s.latchIrq.irq = rest ∧ s.latchIrq.ticks = s.ticks.tail ∧ s.latchIrq.cfg = s.cfg ∧
    SameGprs s s.latchIrq ∧ SameHiLo s s.latchIrq ∧ SameMemory s s.latchIrq

/-- From reset, a word of the opcode table placed where the machine fetches is run by the very next step (log 4: the load
of a program from outside is the model's convention). -/
def Obligations.PlacedWordIsTheNextInstruction : Prop :=
  ∀ (w : Nat) (i : Instr), decodeTableWord 32 w = some i →
    step (State.reset.withFetchWord 32 w) = exec i (State.reset.withFetchWord 32 w)

/-! Invariants and rules over every step. -/

/-- The well-formedness of a state is kept by every step from every well-formed state: memory and the noted addresses in
canonical form, entry 0 of the register file zero, the reserved bits of Status and Cause as at reset. -/
def Obligations.StepKeepsWellFormedness : Prop :=
  ∀ s t : State, s.wf = true → step s = .next t → t.wf = true

/-- The reset state is well-formed; its reserved bits are the model's choice (log 1). -/
def Obligations.ResetIsWellFormed : Prop :=
  State.reset.wf = true

/-- The model's reset state: x[0] reads 0 (10_state.md R11, log 27), every other register and every byte of memory is the
model's choice (log 1, 2, 3), which R30 leaves unspecified, and the parameters are 00_scope.md R5's defaults (log 8 to
13): no HALT is given (log 41) and the TIMER is absent (log 38). -/
def Obligations.ResetState : Prop :=
  (∀ r, State.reset.readGpr r = 0#32) ∧ State.reset.pc = 0#32 ∧ State.reset.hi = 0#32 ∧ State.reset.lo = 0#32 ∧
  State.reset.ie = false ∧ State.reset.im = 0#20 ∧ State.reset.br = false ∧ State.reset.ip = 0#20 ∧
  State.reset.exc = 0#5 ∧ State.reset.epc = 0#32 ∧ (∀ a, Memory.read State.reset.mem a = 0#8) ∧
  State.reset.cfg.excVector = 0x04000000#32 ∧ State.reset.cfg.histInstrs = false ∧
  State.reset.cfg.strictDecode = true ∧ State.reset.cfg.endian = .little ∧ statusMask State.reset.cfg = 0x9FFFFE00#32 ∧
  causeMask State.reset.cfg = 0x9FFFFE7C#32 ∧ excCode State.reset.cfg .interrupt = 0#5 ∧
  excCode State.reset.cfg .syscall = 8#5 ∧ excCode State.reset.cfg .breakpoint = 9#5 ∧
  excCode State.reset.cfg .overflow = 12#5 ∧ State.reset.cfg.halt = none ∧ State.reset.cfg.timer = none

/-- No step changes a parameter (10_state.md R31); byte order cannot be switched at run time (20_memory.md R43). -/
def Obligations.StepKeepsParameters : Prop :=
  ∀ s t : State, step s = .next t → t.cfg = s.cfg

/-- pc stays aligned except through jr, jalr and eret, which may load any value (10_state.md R16; a handler
address that is aligned is a premise, since EXC_VECTOR is a parameter). -/
def Obligations.PcStaysAligned : Prop :=
  ∀ s t : State, s.cfg.excVector.toNat % 4 = 0 → s.pc.toNat % 4 = 0 → step s = .next t →
    t.pc.toNat % 4 = 0 ∨ ∃ i, StepExecutes s i ∧ i.mnemonic ∈ ["jr", "jalr", "eret"]

/-- A step changes no general register but the destination of the instruction it executes, and none at all where it takes
an exception (10_state.md R13, 60_exceptions.md R262). The overflow test is PRESUMED (GK8, log 26), and that an
overflowing instruction leaves its destination is the spec's decision D22 (log 26). -/
def Obligations.StepWritesOnlyTheDestination : Prop :=
  ∀ (s t : State) (r : Reg), step s = .next t → t.readGpr r ≠ s.readGpr r →
    (∃ i, StepExecutes s i ∧ destination i = some r) ∧ ∀ e, ¬StepRaises s e

/-- HI changes only by mult, multu, div, divu, mthi and LO only by mult, multu, div, divu, mtlo (10_state.md R17). -/
def Obligations.HiLoChangeOnlyByTheirInstructions : Prop :=
  ∀ s t : State, step s = .next t →
    (t.hi ≠ s.hi → ∃ i, StepExecutes s i ∧ i.mnemonic ∈ ["mult", "multu", "div", "divu", "mthi"]) ∧
    (t.lo ≠ s.lo → ∃ i, StepExecutes s i ∧ i.mnemonic ∈ ["mult", "multu", "div", "divu", "mtlo"])

/-- A byte of memory changes only by sw, sb, sh, and is then noted as stored to (20_memory.md R41, R57; the note serves the
spec's decision D8, log 17). -/
def Obligations.MemoryChangesOnlyByStores : Prop :=
  ∀ (s t : State) (a : Nat), Memory.wf s.mem = true → step s = .next t → Memory.read t.mem a ≠ Memory.read s.mem a →
    a ∈ t.stored ∧ ∃ i, StepExecutes s i ∧ i.mnemonic ∈ ["sw", "sb", "sh"]

/-- Memory is reached only by the fetch, which reads the four bytes at pc, by the loads, which read their bytes and write
none, and by the stores, which read none: every other instruction does the same, and stops the same, whatever memory
holds, and leaves it as it is, and so does exception entry; eret is one of these instructions (20_memory.md R41). -/
def Obligations.OnlyFetchLoadsAndStoresReachMemory : Prop :=
  ∀ (s : State) (m : Memory),
    (∀ i : Instr, dataAccess s i = none →
      (∀ t, exec i s = .next t → t.mem = s.mem ∧ exec i (s.setMem m s.stored) = .next (t.setMem m t.stored)) ∧
      (∀ f, exec i s = .fault f → exec i (s.setMem m s.stored) = .fault f) ∧
      (∀ f, exec i s ≠ .refused f)) ∧
    (∀ (i : Instr) (w : Width) (ea : Word), dataAccess s i = some (.load, w, ea) →
      (∀ j < w.bytes, Memory.read m (ea.toNat + j) = Memory.read s.mem (ea.toNat + j)) →
      ∀ t, exec i s = .next t → t.mem = s.mem ∧ exec i (s.setMem m s.stored) = .next (t.setMem m t.stored)) ∧
    (∀ (i : Instr) (w : Width) (ea : Word), dataAccess s i = some (.store, w, ea) →
      ∀ t, exec i s = .next t → ∃ u, exec i (s.setMem m s.stored) = .next u ∧ u.setMem t.mem t.stored = t) ∧
    (∀ (e : Exc) (br : Bool) (epc : Word), (s.takeException e br epc).mem = s.mem ∧
      (s.setMem m s.stored).takeException e br epc = (s.takeException e br epc).setMem m s.stored) ∧
    ((∀ j < 4, Memory.read m (s.pc.toNat + j) = Memory.read s.mem (s.pc.toNat + j)) →
      (s.setMem m s.stored).memFetch s.pc = s.memFetch s.pc)

/-- The interrupt mask is written only by mtc0 to Status (10_state.md R22), and hardware never clears a pending bit: only
mtc0 to Cause does (R24, 60_exceptions.md R256; the spec's decisions D18, D19: log 23, 32). -/
def Obligations.MaskAndPendingBitsAreMtc0s : Prop :=
  ∀ s t : State, step s = .next t →
    (t.im ≠ s.im → ∃ rt sel, StepExecutes s (.mtc0 rt 12#5 sel)) ∧
    ∀ k, s.ip.getLsbD k = true → t.ip.getLsbD k = false → ∃ rt sel, StepExecutes s (.mtc0 rt 13#5 sel)

/-- IE is set only by eret and mtc0 to Status, and cleared only by entering the handler, for an exception the step raises,
and mtc0 to Status (10_state.md R21, 60_exceptions.md R256; the spec's decision D14, log 20, 21; the overflow test is
PRESUMED, log 26). -/
def Obligations.InterruptEnableChanges : Prop :=
  ∀ s t : State, step s = .next t →
    (s.ie = false → t.ie = true → StepExecutes s .eret ∨ ∃ rt sel, StepExecutes s (.mtc0 rt 12#5 sel)) ∧
    (s.ie = true → t.ie = false → (∃ e, StepEnters s t e) ∨ ∃ rt sel, StepExecutes s (.mtc0 rt 12#5 sel))

/-- EPC is written only by entering the handler, for an exception the step raises and with the address saved for it, and by
mtc0 to EPC (10_state.md R25, 60_exceptions.md R261; the spec's decision D14, log 21; the overflow test is PRESUMED,
log 26). -/
def Obligations.EpcChanges : Prop :=
  ∀ s t : State, step s = .next t → t.epc ≠ s.epc →
    (∃ e, StepEnters s t e) ∨ ∃ rt sel, StepExecutes s (.mtc0 rt 14#5 sel) ∧ t.epc = s.readGpr rt

/-- Over any run that stops nowhere, a byte that is not noted as stored to reads as it did at the start, and no note is
lost: the program text that a fetch may read is constant (20_memory.md R57, 10_state.md R31). -/
def Obligations.UnstoredBytesAreConstantOverRuns : Prop :=
  ∀ (k : Nat) (s t : State), Memory.wf s.mem = true → Sys2Proof.core.run k s = .next t →
    (∀ a ∈ s.stored, a ∈ t.stored) ∧ (∀ a, a ∉ t.stored → Memory.read t.mem a = Memory.read s.mem a)

/-- A run ends in the first of its states where HALT says so: after the steps it names, at the pc it names, or at a jump to
itself, which still steps, to itself. With no HALT given no run ends, and no step depends on HALT, so the machine never
stops by itself except at a fault or a refusal (the spec's decision D35, 93_implementation_defined.md U19; log 41). -/
def Obligations.RunEndsWhereHaltSays : Prop :=
  (∀ (fuel : Nat) (s t : State), runToEnd fuel 0 s = .next (some t) ↔
    ∃ n ≤ fuel, Sys2Proof.core.run n s = .next t ∧ t.runEnded n = true ∧
      ∀ m < n, ∀ u, Sys2Proof.core.run m s = .next u → u.runEnded m = false) ∧
  (∀ (s : State) (k : Nat), s.runEnded k = true ↔
    (∃ n, s.cfg.halt = some (.steps n) ∧ n ≤ k) ∨ s.cfg.halt = some (.atPc s.pc) ∨
    s.cfg.halt = some .selfLoop ∧ (s.fetchInstr = .next (.beq 0#5 0#5 0xFFFF#16) ∨
      ∃ target, s.fetchInstr = .next (.j target) ∧ s.jumpTarget target = s.pc)) ∧
  (∀ s : State, s.atSelfLoop = true → s.latchIrq.interruptPending = false → s.timerSignal = none →
    ∃ t, step s = .next t ∧ OnlyPc s.latchIrq t s.pc) ∧
  ∀ (s : State) (h : Option RunEnd), step { s with cfg := { s.cfg with halt := h } } =
    andThen (step s) fun t => .next { t with cfg := { t.cfg with halt := h } }

/-! Pseudo-instructions: 49_pseudo.md. -/

/-- Each expansion has its pseudo-instruction's meaning and nothing else, but for pc, which passes its instructions (R241
to R244). -/
def Obligations.PseudoInstructionsHaveTheirMeaning : Prop :=
  ∀ (r r2 : Reg) (v : Word) (s : State),
    (∃ t, execAll (expandPseudo (.la r v)) s = .next t ∧ OnlyGprAndPc s t r v (s.pc + 8#32)) ∧
    (∃ t, execAll (expandPseudo (.move r r2)) s = .next t ∧ OnlyGprAndPc s t r (s.readGpr r2) (s.pc + 4#32)) ∧
    (∃ t, execAll (expandPseudo (.li r v)) s = .next t ∧ OnlyGprAndPc s t r v
      (s.pc + BitVec.ofNat 32 (4 * (expandPseudo (.li r v)).length))) ∧
    (∃ t, execAll (expandPseudo (.clear r)) s = .next t ∧ OnlyGprAndPc s t r 0#32 (s.pc + 4#32))
end

