-- ==== Sys2Proof/Laws/Memory.lean ====
section
/-! SUPPORT. Memory: reading after writing, the canonical form and that every operation keeps it, the addresses of an
access, and the byte order. -/

namespace Sys2Proof.Machine

/-! One byte. -/

theorem Memory.wfFrom_mono {lo lo' : Nat} {m : Memory} (h : lo' ≤ lo) (hw : Memory.wfFrom lo m = true) :
    Memory.wfFrom lo' m = true := by
  cases m with
  | nil => rfl
  | cons c rest =>
    obtain ⟨a, v⟩ := c
    simp only [Memory.wfFrom, Bool.and_eq_true, decide_eq_true_eq] at hw ⊢
    exact ⟨⟨⟨by omega, hw.1.1.2⟩, hw.1.2⟩, hw.2⟩

/-- An address below every listed one reads as unlisted. -/
theorem Memory.read_below {lo a : Nat} {m : Memory} (hw : Memory.wfFrom lo m = true) (h : a < lo) :
    Memory.read m a = unlistedByte := by
  induction m generalizing lo with
  | nil => rfl
  | cons c rest ih =>
    obtain ⟨b, v⟩ := c
    simp only [Memory.wfFrom, Bool.and_eq_true, decide_eq_true_eq] at hw
    have hne : a ≠ b := by omega
    simp only [Memory.read, hne, if_false]
    exact ih hw.2 (by omega)

theorem Memory.read_write_from {lo : Nat} {m : Memory} (hw : Memory.wfFrom lo m = true) (a : Nat) (v : Byte) (b : Nat) :
    Memory.read (Memory.write m a v) b = if b = a then v else Memory.read m b := by
  induction m generalizing lo with
  | nil =>
    by_cases hv : v = unlistedByte
    · simp only [Memory.write, hv, if_true, Memory.read]; split <;> rfl
    · simp only [Memory.write, hv, if_false, Memory.read]
  | cons c rest ih =>
    obtain ⟨x, w⟩ := c
    simp only [Memory.wfFrom, Bool.and_eq_true, decide_eq_true_eq] at hw
    obtain ⟨⟨⟨h1, h2⟩, h3⟩, h4⟩ := hw
    rcases Nat.lt_trichotomy a x with hlt | heq | hgt
    · by_cases hv : v = unlistedByte
      · simp only [Memory.write, hlt, hv, if_true, Memory.read]
        by_cases hb : b = a
        · have : b ≠ x := by omega
          simp only [hb, if_true]
          have hax : a ≠ x := by omega
          simp only [hax, if_false]
          exact Memory.read_below h4 (by omega)
        · simp only [hb, if_false]
      · simp only [Memory.write, hlt, hv, if_true, if_false, Memory.read]
    · subst heq
      by_cases hv : v = unlistedByte
      · simp only [Memory.write, Nat.lt_irrefl, hv, if_true, if_false, Memory.read]
        by_cases hb : b = a
        · simp only [hb, if_true]
          exact Memory.read_below h4 (by omega)
        · simp only [hb, if_false]
      · simp only [Memory.write, Nat.lt_irrefl, hv, if_true, if_false, Memory.read]
        by_cases hb : b = a <;> simp only [hb, if_true, if_false]
    · have hn1 : ¬ a < x := by omega
      have hn2 : a ≠ x := by omega
      simp only [Memory.write, hn1, hn2, if_false, Memory.read]
      by_cases hb : b = x
      · have : b ≠ a := by omega
        simp only [hb, if_true]
        have hxa : x ≠ a := by omega
        simp only [hxa, if_false]
      · simp only [hb, if_false]
        exact ih h4

/-- Reading one byte after writing one byte of a memory in canonical form. -/
theorem Memory.read_write {m : Memory} (hw : Memory.wf m = true) (a : Nat) (v : Byte) (b : Nat) :
    Memory.read (Memory.write m a v) b = if b = a then v else Memory.read m b :=
  Memory.read_write_from hw a v b

theorem Memory.wfFrom_write {lo : Nat} {m : Memory} (hw : Memory.wfFrom lo m = true) {a : Nat} (hlo : lo ≤ a)
    (ha : a < 2 ^ 32) (v : Byte) : Memory.wfFrom lo (Memory.write m a v) = true := by
  induction m generalizing lo with
  | nil =>
    by_cases hv : v = unlistedByte
    · simp only [Memory.write, hv, if_true]; rfl
    · simp only [Memory.write, hv, if_false, Memory.wfFrom, Bool.and_eq_true, decide_eq_true_eq, Bool.not_eq_true',
        beq_eq_false_iff_ne, ne_eq, not_false_eq_true, and_true]
      exact ⟨hlo, ha⟩
  | cons c rest ih =>
    obtain ⟨x, w⟩ := c
    have hw' := hw
    simp only [Memory.wfFrom, Bool.and_eq_true, decide_eq_true_eq] at hw
    obtain ⟨⟨⟨h1, h2⟩, h3⟩, h4⟩ := hw
    rcases Nat.lt_trichotomy a x with hlt | heq | hgt
    · by_cases hv : v = unlistedByte
      · simp only [Memory.write, hlt, hv, if_true]; exact hw'
      · simp only [Memory.write, hlt, hv, if_true, if_false, Memory.wfFrom, Bool.and_eq_true, decide_eq_true_eq]
        exact ⟨⟨⟨hlo, ha⟩, by simpa using hv⟩, ⟨⟨⟨hlt, h2⟩, h3⟩, h4⟩⟩
    · subst heq
      by_cases hv : v = unlistedByte
      · simp only [Memory.write, Nat.lt_irrefl, hv, if_true, if_false]
        exact Memory.wfFrom_mono (by omega) h4
      · simp only [Memory.write, Nat.lt_irrefl, hv, if_true, if_false, Memory.wfFrom, Bool.and_eq_true,
          decide_eq_true_eq]
        exact ⟨⟨⟨hlo, ha⟩, by simpa using hv⟩, h4⟩
    · have hn1 : ¬ a < x := by omega
      have hn2 : a ≠ x := by omega
      simp only [Memory.write, hn1, hn2, if_false, Memory.wfFrom, Bool.and_eq_true, decide_eq_true_eq]
      exact ⟨⟨⟨h1, h2⟩, h3⟩, ih h4 hgt⟩

/-- A write of a byte inside the 32-bit space keeps the canonical form. -/
theorem Memory.wf_write {m : Memory} (hw : Memory.wf m = true) {a : Nat} (ha : a < 2 ^ 32) (v : Byte) :
    Memory.wf (Memory.write m a v) = true :=
  Memory.wfFrom_write hw (Nat.zero_le a) ha v

/-! Several bytes. -/

@[simp] theorem Memory.length_readBytes (m : Memory) (ea : Word) (n : Nat) : (Memory.readBytes m ea n).length = n := by
  induction n generalizing ea with
  | zero => rfl
  | succ n ih => simp [Memory.readBytes, ih]

/-- Storing bytes keeps the canonical form. -/
theorem Memory.wf_writeBytes {m : Memory} (hw : Memory.wf m = true) (ea : Word) (bs : List Byte) :
    Memory.wf (Memory.writeBytes m ea bs) = true := by
  induction bs generalizing m ea with
  | nil => exact hw
  | cons b bs ih => exact ih (Memory.wf_write hw ea.isLt b) (ea + 1#32)

theorem toNat_add_one {ea : Word} {n : Nat} (h : ea.toNat + (n + 1) ≤ 2 ^ 32) (hn : 0 < n) :
    (ea + 1#32).toNat = ea.toNat + 1 := by
  rw [BitVec.toNat_add]
  exact Nat.mod_eq_of_lt (by simp; omega)

/-- The addresses of an access that does not wrap. -/
theorem mem_accessAddrs {ea : Word} {n : Nat} (h : ea.toNat + n ≤ 2 ^ 32) (a : Nat) :
    a ∈ accessAddrs ea n ↔ ∃ k < n, a = ea.toNat + k := by
  induction n generalizing ea with
  | zero => simp [accessAddrs]
  | succ n ih =>
    rcases Nat.eq_zero_or_pos n with rfl | hn
    · simp [accessAddrs]
    · have h1 := toNat_add_one h hn
      have h2 := ih (ea := ea + 1#32) (by omega)
      simp only [accessAddrs, List.mem_cons, h2, h1]
      constructor
      · rintro (rfl | ⟨k, hk, rfl⟩)
        · exact ⟨0, by omega, by omega⟩
        · exact ⟨k + 1, by omega, by omega⟩
      · rintro ⟨k, hk, rfl⟩
        rcases Nat.eq_zero_or_pos k with rfl | hk0
        · exact .inl (by omega)
        · exact .inr ⟨k - 1, by omega, by omega⟩

/-- The byte at each address of an access that does not wrap. -/
theorem Memory.getElem_readBytes {m : Memory} {ea : Word} {n : Nat} (h : ea.toNat + n ≤ 2 ^ 32) {k : Nat}
    (hk : k < (Memory.readBytes m ea n).length) : (Memory.readBytes m ea n)[k] = Memory.read m (ea.toNat + k) := by
  induction n generalizing ea k with
  | zero => simp at hk
  | succ n ih =>
    have hk' : k < n + 1 := by simpa using hk
    rcases Nat.eq_zero_or_pos k with rfl | hk0
    · rfl
    · obtain ⟨j, rfl⟩ : ∃ j, k = j + 1 := ⟨k - 1, by omega⟩
      have h1 := toNat_add_one h (by omega : 0 < n)
      simp only [Memory.readBytes, List.getElem_cons_succ]
      rw [ih (ea := ea + 1#32) (by omega), h1, Nat.add_assoc, Nat.add_comm 1 j]

/-- A byte outside a store that does not wrap is unchanged. -/
theorem Memory.read_writeBytes_outside {m : Memory} (hw : Memory.wf m = true) {ea : Word} {bs : List Byte}
    (h : ea.toNat + bs.length ≤ 2 ^ 32) {a : Nat} (ha : ∀ k < bs.length, a ≠ ea.toNat + k) :
    Memory.read (Memory.writeBytes m ea bs) a = Memory.read m a := by
  induction bs generalizing m ea with
  | nil => rfl
  | cons b bs ih =>
    have h0 : a ≠ ea.toNat := ha 0 (by simp)
    have hw' := Memory.wf_write hw ea.isLt b
    simp only [List.length_cons] at h ha
    rcases Nat.eq_zero_or_pos bs.length with hz | hpos
    · obtain rfl := List.length_eq_zero_iff.mp hz
      simp only [Memory.writeBytes, Memory.read_write hw, h0, if_false]
    · have h1 := toNat_add_one h hpos
      simp only [Memory.writeBytes]
      rw [ih hw' (by omega) (fun k hk => by have := ha (k + 1) (by omega); omega), Memory.read_write hw]
      simp only [h0, if_false]

/-- The bytes of a store that does not wrap. -/
theorem Memory.read_writeBytes_inside {m : Memory} (hw : Memory.wf m = true) {ea : Word} {bs : List Byte}
    (h : ea.toNat + bs.length ≤ 2 ^ 32) {k : Nat} (hk : k < bs.length) :
    Memory.read (Memory.writeBytes m ea bs) (ea.toNat + k) = bs[k] := by
  induction bs generalizing m ea k with
  | nil => simp at hk
  | cons b bs ih =>
    have hw' := Memory.wf_write hw ea.isLt b
    simp only [List.length_cons] at h hk
    rcases Nat.eq_zero_or_pos bs.length with hz | hpos
    · obtain rfl := List.length_eq_zero_iff.mp hz
      obtain rfl : k = 0 := by simpa using hk
      simp [Memory.writeBytes, Memory.read_write hw]
    · have h1 := toNat_add_one h hpos
      simp only [Memory.writeBytes]
      rcases Nat.eq_zero_or_pos k with rfl | hk0
      · rw [Memory.read_writeBytes_outside hw' (by omega) (fun j _ => by omega), Memory.read_write hw]
        simp
      · obtain ⟨j, rfl⟩ : ∃ j, k = j + 1 := ⟨k - 1, by omega⟩
        have := ih hw' (ea := ea + 1#32) (by omega) (k := j) (by omega)
        rw [h1] at this
        rw [show ea.toNat + (j + 1) = ea.toNat + 1 + j by omega, this]
        rfl

/-! Alignment. -/

theorem Width.bytes_pos (w : Width) : 0 < w.bytes := by cases w <;> decide

/-- An aligned access ends at most at the top of the address space (20_memory.md R50). -/
theorem aligned_no_wrap {w : Width} {ea : Word} (h : aligned w ea = true) : ea.toNat + w.bytes ≤ 2 ^ 32 := by
  have hlt := ea.isLt
  cases w <;> simp only [aligned, Width.bytes, beq_iff_eq] at h ⊢ <;> omega

theorem aligned_word_no_wrap {ea : Word} (h : aligned .word ea = true) : ea.toNat + 4 ≤ 2 ^ 32 :=
  aligned_no_wrap h

theorem aligned_half_no_wrap {ea : Word} (h : aligned .half ea = true) : ea.toNat + 2 ≤ 2 ^ 32 :=
  aligned_no_wrap h

/-! The addresses noted as stored to. -/

theorem mem_noteStored (st : List Nat) (a b : Nat) : b ∈ noteStored st a ↔ b = a ∨ b ∈ st := by
  induction st with
  | nil => simp [noteStored]
  | cons x rest ih =>
    simp only [noteStored]
    split
    · simp
    · split
      · next h => subst h; simp
      · simp only [List.mem_cons, ih]; tauto

theorem mem_noteAllStored (st l : List Nat) (b : Nat) : b ∈ noteAllStored st l ↔ b ∈ l ∨ b ∈ st := by
  induction l generalizing st with
  | nil => simp [noteAllStored]
  | cons a rest ih => simp only [noteAllStored, ih, mem_noteStored, List.mem_cons]; tauto

theorem storedWfFrom_mono {lo lo' : Nat} {st : List Nat} (h : lo' ≤ lo) (hw : storedWfFrom lo st = true) :
    storedWfFrom lo' st = true := by
  cases st with
  | nil => rfl
  | cons a rest =>
    simp only [storedWfFrom, Bool.and_eq_true, decide_eq_true_eq] at hw ⊢
    exact ⟨⟨by omega, hw.1.2⟩, hw.2⟩

theorem storedWfFrom_noteStored {lo : Nat} {st : List Nat} (hw : storedWfFrom lo st = true) {a : Nat} (hlo : lo ≤ a)
    (ha : a < 2 ^ 32) : storedWfFrom lo (noteStored st a) = true := by
  induction st generalizing lo with
  | nil => simp only [noteStored, storedWfFrom, Bool.and_true, Bool.and_eq_true, decide_eq_true_eq]; exact ⟨hlo, ha⟩
  | cons x rest ih =>
    have hw' := hw
    simp only [storedWfFrom, Bool.and_eq_true, decide_eq_true_eq] at hw
    simp only [noteStored]
    split
    · simp only [storedWfFrom, Bool.and_eq_true, decide_eq_true_eq]
      exact ⟨⟨hlo, ha⟩, ⟨by omega, hw.1.2⟩, hw.2⟩
    · split
      · exact hw'
      · simp only [storedWfFrom, Bool.and_eq_true, decide_eq_true_eq]
        exact ⟨hw.1, ih hw.2 (by omega)⟩

/-- Noting addresses inside the 32-bit space keeps the form of the noted addresses. -/
theorem storedWf_noteAllStored {st : List Nat} (hw : storedWf st = true) {l : List Nat} (hl : ∀ a ∈ l, a < 2 ^ 32) :
    storedWf (noteAllStored st l) = true := by
  induction l generalizing st with
  | nil => exact hw
  | cons a rest ih =>
    exact ih (storedWfFrom_noteStored hw (Nat.zero_le a) (hl a (by simp))) fun b hb => hl b (by simp [hb])

theorem accessAddrs_lt (ea : Word) (n : Nat) : ∀ a ∈ accessAddrs ea n, a < 2 ^ 32 := by
  induction n generalizing ea with
  | zero => simp [accessAddrs]
  | succ n ih =>
    intro a ha
    simp only [accessAddrs, List.mem_cons] at ha
    rcases ha with rfl | ha
    · exact ea.isLt
    · exact ih _ a ha

/-! Byte order (20_memory.md R43). -/

@[simp] theorem length_bytesLE (n : Nat) (v : Word) : (bytesLE n v).length = n := by
  induction n generalizing v with
  | zero => rfl
  | succ n ih => simp [bytesLE, ih]

@[simp] theorem length_bytesOfWord (e : Endian) (n : Nat) (v : Word) : (bytesOfWord e n v).length = n := by
  cases e <;> simp [bytesOfWord]

/-- Byte `k` of a word, least significant first. -/
theorem getElem_bytesLE (n : Nat) (v : Word) {k : Nat} (hk : k < (bytesLE n v).length) :
    (bytesLE n v)[k] = (v >>> (8 * k)).setWidth 8 := by
  induction n generalizing v k with
  | zero => simp at hk
  | succ n ih =>
    rcases Nat.eq_zero_or_pos k with rfl | hk0
    · simp [bytesLE]
    · obtain ⟨j, rfl⟩ : ∃ j, k = j + 1 := ⟨k - 1, by omega⟩
      simp only [bytesLE, List.getElem_cons_succ]
      rw [ih, ← BitVec.shiftRight_add, Nat.mul_add, Nat.add_comm (8 * j)]

/-- The bits of two bytes put together. -/
theorem getLsbD_twoBytes (b1 b0 : Byte) (i : Nat) :
    (b1 ++ b0 : BitVec 16).getLsbD i = if i < 8 then b0.getLsbD i else b1.getLsbD (i - 8) :=
  BitVec.getLsbD_append

/-- The bits of four bytes put together. -/
theorem getLsbD_fourBytes (b3 b2 b1 b0 : Byte) (i : Nat) :
    (b3 ++ b2 ++ b1 ++ b0 : Word).getLsbD i =
      if i < 8 then b0.getLsbD i else if i < 16 then b1.getLsbD (i - 8)
      else if i < 24 then b2.getLsbD (i - 16) else b3.getLsbD (i - 24) := by
  refine (BitVec.getLsbD_append (x := b3 ++ b2 ++ b1) (y := b0)).trans ?_
  by_cases h : i < 8
  · simp only [h, if_true]
  simp only [h, if_false]
  refine (BitVec.getLsbD_append (x := b3 ++ b2) (y := b1)).trans ?_
  by_cases h2 : i - 8 < 8
  · simp only [h2, show i < 16 by omega, if_true]
  simp only [h2, show ¬ i < 16 by omega, if_false]
  refine (BitVec.getLsbD_append (x := b3) (y := b2)).trans ?_
  rw [show i - 8 - 8 = i - 16 by omega]
  by_cases h3 : i - 16 < 8
  · simp only [h3, show i < 24 by omega, if_true]
  · simp only [h3, show ¬ i < 24 by omega, if_false, show i - 16 - 8 = i - 24 by omega]

theorem wordLE_one (b0 : Byte) : wordLE [b0] = b0.setWidth 32 := by
  simp [wordLE]

theorem wordLE_two (b0 b1 : Byte) : wordLE [b0, b1] = (b1 ++ b0 : BitVec 16).setWidth 32 := by
  refine BitVec.eq_of_getLsbD_eq fun i hi => ?_
  rw [BitVec.getLsbD_setWidth, getLsbD_twoBytes]
  by_cases h : i < 8
  · simp [wordLE, h, hi]
  · simp [wordLE, h, hi, BitVec.getLsbD_of_ge b0 i (by omega)]

theorem wordLE_four (b0 b1 b2 b3 : Byte) : wordLE [b0, b1, b2, b3] = b3 ++ b2 ++ b1 ++ b0 := by
  refine BitVec.eq_of_getLsbD_eq fun i hi => ?_
  have g : ∀ (b : Byte) (j : Nat), 8 ≤ j → b.getLsbD j = false := fun b j hj => BitVec.getLsbD_of_ge b j hj
  rw [getLsbD_fourBytes]
  have e1 : i - 8 - 8 = i - 16 := by omega
  have e2 : i - 16 - 8 = i - 24 := by omega
  simp only [wordLE, BitVec.getLsbD_or, BitVec.getLsbD_shiftLeft, BitVec.getLsbD_setWidth, hi, e1, e2, decide_true,
    Bool.true_and, BitVec.getLsbD_zero, Bool.and_false, Bool.false_or]
  by_cases h : i < 8
  · simp [h]
  · have hb0 := g b0 i (by omega)
    by_cases h2 : i < 16
    · simp [h, h2, hb0, show i - 8 < 8 by omega, show i - 8 < 32 by omega]
    · have hb1 := g b1 (i - 8) (by omega)
      by_cases h3 : i < 24
      · simp [h, h2, h3, hb0, hb1, show ¬ i - 8 < 8 by omega, show i - 8 < 32 by omega, show i - 16 < 8 by omega,
          show i - 16 < 32 by omega]
      · have hb2 := g b2 (i - 16) (by omega)
        simp [h, h2, h3, hb0, hb1, hb2, show ¬ i - 8 < 8 by omega, show i - 8 < 32 by omega,
          show ¬ i - 16 < 8 by omega, show i - 16 < 32 by omega, show i - 24 < 32 by omega]

end Sys2Proof.Machine
end

