-- ==== Sys2Proof/Laws/State.lean ====
section
/-! SUPPORT. One lemma for each field and each named update of the state, and the register file's read-after-write law,
so that no proof unfolds a record update. -/

namespace Sys2Proof.Machine

@[simp] theorem State.setPc_gpr (s : State) (a : Word) : (s.setPc a).gpr = s.gpr := rfl
@[simp] theorem State.setPc_pc (s : State) (a : Word) : (s.setPc a).pc = a := rfl
@[simp] theorem State.setPc_hi (s : State) (a : Word) : (s.setPc a).hi = s.hi := rfl
@[simp] theorem State.setPc_lo (s : State) (a : Word) : (s.setPc a).lo = s.lo := rfl
@[simp] theorem State.setPc_status (s : State) (a : Word) : (s.setPc a).status = s.status := rfl
@[simp] theorem State.setPc_cause (s : State) (a : Word) : (s.setPc a).cause = s.cause := rfl
@[simp] theorem State.setPc_epc (s : State) (a : Word) : (s.setPc a).epc = s.epc := rfl
@[simp] theorem State.setPc_mem (s : State) (a : Word) : (s.setPc a).mem = s.mem := rfl
@[simp] theorem State.setPc_stored (s : State) (a : Word) : (s.setPc a).stored = s.stored := rfl
@[simp] theorem State.setPc_irq (s : State) (a : Word) : (s.setPc a).irq = s.irq := rfl
@[simp] theorem State.setPc_ticks (s : State) (a : Word) : (s.setPc a).ticks = s.ticks := rfl
@[simp] theorem State.setPc_draws (s : State) (a : Word) : (s.setPc a).draws = s.draws := rfl
@[simp] theorem State.setPc_cfg (s : State) (a : Word) : (s.setPc a).cfg = s.cfg := rfl
@[simp] theorem State.setPc_readGpr (s : State) (a : Word) (r : Reg) : (s.setPc a).readGpr r = s.readGpr r := rfl
@[simp] theorem State.setHi_gpr (s : State) (v : Word) : (s.setHi v).gpr = s.gpr := rfl
@[simp] theorem State.setHi_pc (s : State) (v : Word) : (s.setHi v).pc = s.pc := rfl
@[simp] theorem State.setHi_hi (s : State) (v : Word) : (s.setHi v).hi = v := rfl
@[simp] theorem State.setHi_lo (s : State) (v : Word) : (s.setHi v).lo = s.lo := rfl
@[simp] theorem State.setHi_status (s : State) (v : Word) : (s.setHi v).status = s.status := rfl
@[simp] theorem State.setHi_cause (s : State) (v : Word) : (s.setHi v).cause = s.cause := rfl
@[simp] theorem State.setHi_epc (s : State) (v : Word) : (s.setHi v).epc = s.epc := rfl
@[simp] theorem State.setHi_mem (s : State) (v : Word) : (s.setHi v).mem = s.mem := rfl
@[simp] theorem State.setHi_stored (s : State) (v : Word) : (s.setHi v).stored = s.stored := rfl
@[simp] theorem State.setHi_irq (s : State) (v : Word) : (s.setHi v).irq = s.irq := rfl
@[simp] theorem State.setHi_ticks (s : State) (v : Word) : (s.setHi v).ticks = s.ticks := rfl
@[simp] theorem State.setHi_draws (s : State) (v : Word) : (s.setHi v).draws = s.draws := rfl
@[simp] theorem State.setHi_cfg (s : State) (v : Word) : (s.setHi v).cfg = s.cfg := rfl
@[simp] theorem State.setHi_readGpr (s : State) (v : Word) (r : Reg) : (s.setHi v).readGpr r = s.readGpr r := rfl
@[simp] theorem State.setLo_gpr (s : State) (v : Word) : (s.setLo v).gpr = s.gpr := rfl
@[simp] theorem State.setLo_pc (s : State) (v : Word) : (s.setLo v).pc = s.pc := rfl
@[simp] theorem State.setLo_hi (s : State) (v : Word) : (s.setLo v).hi = s.hi := rfl
@[simp] theorem State.setLo_lo (s : State) (v : Word) : (s.setLo v).lo = v := rfl
@[simp] theorem State.setLo_status (s : State) (v : Word) : (s.setLo v).status = s.status := rfl
@[simp] theorem State.setLo_cause (s : State) (v : Word) : (s.setLo v).cause = s.cause := rfl
@[simp] theorem State.setLo_epc (s : State) (v : Word) : (s.setLo v).epc = s.epc := rfl
@[simp] theorem State.setLo_mem (s : State) (v : Word) : (s.setLo v).mem = s.mem := rfl
@[simp] theorem State.setLo_stored (s : State) (v : Word) : (s.setLo v).stored = s.stored := rfl
@[simp] theorem State.setLo_irq (s : State) (v : Word) : (s.setLo v).irq = s.irq := rfl
@[simp] theorem State.setLo_ticks (s : State) (v : Word) : (s.setLo v).ticks = s.ticks := rfl
@[simp] theorem State.setLo_draws (s : State) (v : Word) : (s.setLo v).draws = s.draws := rfl
@[simp] theorem State.setLo_cfg (s : State) (v : Word) : (s.setLo v).cfg = s.cfg := rfl
@[simp] theorem State.setLo_readGpr (s : State) (v : Word) (r : Reg) : (s.setLo v).readGpr r = s.readGpr r := rfl
@[simp] theorem State.setStatus_gpr (s : State) (v : Word) : (s.setStatus v).gpr = s.gpr := rfl
@[simp] theorem State.setStatus_pc (s : State) (v : Word) : (s.setStatus v).pc = s.pc := rfl
@[simp] theorem State.setStatus_hi (s : State) (v : Word) : (s.setStatus v).hi = s.hi := rfl
@[simp] theorem State.setStatus_lo (s : State) (v : Word) : (s.setStatus v).lo = s.lo := rfl
@[simp] theorem State.setStatus_status (s : State) (v : Word) : (s.setStatus v).status = v := rfl
@[simp] theorem State.setStatus_cause (s : State) (v : Word) : (s.setStatus v).cause = s.cause := rfl
@[simp] theorem State.setStatus_epc (s : State) (v : Word) : (s.setStatus v).epc = s.epc := rfl
@[simp] theorem State.setStatus_mem (s : State) (v : Word) : (s.setStatus v).mem = s.mem := rfl
@[simp] theorem State.setStatus_stored (s : State) (v : Word) : (s.setStatus v).stored = s.stored := rfl
@[simp] theorem State.setStatus_irq (s : State) (v : Word) : (s.setStatus v).irq = s.irq := rfl
@[simp] theorem State.setStatus_ticks (s : State) (v : Word) : (s.setStatus v).ticks = s.ticks := rfl
@[simp] theorem State.setStatus_draws (s : State) (v : Word) : (s.setStatus v).draws = s.draws := rfl
@[simp] theorem State.setStatus_cfg (s : State) (v : Word) : (s.setStatus v).cfg = s.cfg := rfl
@[simp] theorem State.setStatus_readGpr (s : State) (v : Word) (r : Reg) : (s.setStatus v).readGpr r = s.readGpr r := rfl
@[simp] theorem State.setCause_gpr (s : State) (v : Word) : (s.setCause v).gpr = s.gpr := rfl
@[simp] theorem State.setCause_pc (s : State) (v : Word) : (s.setCause v).pc = s.pc := rfl
@[simp] theorem State.setCause_hi (s : State) (v : Word) : (s.setCause v).hi = s.hi := rfl
@[simp] theorem State.setCause_lo (s : State) (v : Word) : (s.setCause v).lo = s.lo := rfl
@[simp] theorem State.setCause_status (s : State) (v : Word) : (s.setCause v).status = s.status := rfl
@[simp] theorem State.setCause_cause (s : State) (v : Word) : (s.setCause v).cause = v := rfl
@[simp] theorem State.setCause_epc (s : State) (v : Word) : (s.setCause v).epc = s.epc := rfl
@[simp] theorem State.setCause_mem (s : State) (v : Word) : (s.setCause v).mem = s.mem := rfl
@[simp] theorem State.setCause_stored (s : State) (v : Word) : (s.setCause v).stored = s.stored := rfl
@[simp] theorem State.setCause_irq (s : State) (v : Word) : (s.setCause v).irq = s.irq := rfl
@[simp] theorem State.setCause_ticks (s : State) (v : Word) : (s.setCause v).ticks = s.ticks := rfl
@[simp] theorem State.setCause_draws (s : State) (v : Word) : (s.setCause v).draws = s.draws := rfl
@[simp] theorem State.setCause_cfg (s : State) (v : Word) : (s.setCause v).cfg = s.cfg := rfl
@[simp] theorem State.setCause_readGpr (s : State) (v : Word) (r : Reg) : (s.setCause v).readGpr r = s.readGpr r := rfl
@[simp] theorem State.setEpc_gpr (s : State) (v : Word) : (s.setEpc v).gpr = s.gpr := rfl
@[simp] theorem State.setEpc_pc (s : State) (v : Word) : (s.setEpc v).pc = s.pc := rfl
@[simp] theorem State.setEpc_hi (s : State) (v : Word) : (s.setEpc v).hi = s.hi := rfl
@[simp] theorem State.setEpc_lo (s : State) (v : Word) : (s.setEpc v).lo = s.lo := rfl
@[simp] theorem State.setEpc_status (s : State) (v : Word) : (s.setEpc v).status = s.status := rfl
@[simp] theorem State.setEpc_cause (s : State) (v : Word) : (s.setEpc v).cause = s.cause := rfl
@[simp] theorem State.setEpc_epc (s : State) (v : Word) : (s.setEpc v).epc = v := rfl
@[simp] theorem State.setEpc_mem (s : State) (v : Word) : (s.setEpc v).mem = s.mem := rfl
@[simp] theorem State.setEpc_stored (s : State) (v : Word) : (s.setEpc v).stored = s.stored := rfl
@[simp] theorem State.setEpc_irq (s : State) (v : Word) : (s.setEpc v).irq = s.irq := rfl
@[simp] theorem State.setEpc_ticks (s : State) (v : Word) : (s.setEpc v).ticks = s.ticks := rfl
@[simp] theorem State.setEpc_draws (s : State) (v : Word) : (s.setEpc v).draws = s.draws := rfl
@[simp] theorem State.setEpc_cfg (s : State) (v : Word) : (s.setEpc v).cfg = s.cfg := rfl
@[simp] theorem State.setEpc_readGpr (s : State) (v : Word) (r : Reg) : (s.setEpc v).readGpr r = s.readGpr r := rfl
@[simp] theorem State.setMem_gpr (s : State) (m : Memory) (st : List Nat) : (s.setMem m st).gpr = s.gpr := rfl
@[simp] theorem State.setMem_pc (s : State) (m : Memory) (st : List Nat) : (s.setMem m st).pc = s.pc := rfl
@[simp] theorem State.setMem_hi (s : State) (m : Memory) (st : List Nat) : (s.setMem m st).hi = s.hi := rfl
@[simp] theorem State.setMem_lo (s : State) (m : Memory) (st : List Nat) : (s.setMem m st).lo = s.lo := rfl
@[simp] theorem State.setMem_status (s : State) (m : Memory) (st : List Nat) : (s.setMem m st).status = s.status := rfl
@[simp] theorem State.setMem_cause (s : State) (m : Memory) (st : List Nat) : (s.setMem m st).cause = s.cause := rfl
@[simp] theorem State.setMem_epc (s : State) (m : Memory) (st : List Nat) : (s.setMem m st).epc = s.epc := rfl
@[simp] theorem State.setMem_mem (s : State) (m : Memory) (st : List Nat) : (s.setMem m st).mem = m := rfl
@[simp] theorem State.setMem_stored (s : State) (m : Memory) (st : List Nat) : (s.setMem m st).stored = st := rfl
@[simp] theorem State.setMem_irq (s : State) (m : Memory) (st : List Nat) : (s.setMem m st).irq = s.irq := rfl
@[simp] theorem State.setMem_ticks (s : State) (m : Memory) (st : List Nat) : (s.setMem m st).ticks = s.ticks := rfl
@[simp] theorem State.setMem_draws (s : State) (m : Memory) (st : List Nat) : (s.setMem m st).draws = s.draws := rfl
@[simp] theorem State.setMem_cfg (s : State) (m : Memory) (st : List Nat) : (s.setMem m st).cfg = s.cfg := rfl
@[simp] theorem State.setMem_readGpr (s : State) (m : Memory) (st : List Nat) (r : Reg) : (s.setMem m st).readGpr r = s.readGpr r := rfl
@[simp] theorem State.setIrq_gpr (s : State) (l : List Lines) : (s.setIrq l).gpr = s.gpr := rfl
@[simp] theorem State.setIrq_pc (s : State) (l : List Lines) : (s.setIrq l).pc = s.pc := rfl
@[simp] theorem State.setIrq_hi (s : State) (l : List Lines) : (s.setIrq l).hi = s.hi := rfl
@[simp] theorem State.setIrq_lo (s : State) (l : List Lines) : (s.setIrq l).lo = s.lo := rfl
@[simp] theorem State.setIrq_status (s : State) (l : List Lines) : (s.setIrq l).status = s.status := rfl
@[simp] theorem State.setIrq_cause (s : State) (l : List Lines) : (s.setIrq l).cause = s.cause := rfl
@[simp] theorem State.setIrq_epc (s : State) (l : List Lines) : (s.setIrq l).epc = s.epc := rfl
@[simp] theorem State.setIrq_mem (s : State) (l : List Lines) : (s.setIrq l).mem = s.mem := rfl
@[simp] theorem State.setIrq_stored (s : State) (l : List Lines) : (s.setIrq l).stored = s.stored := rfl
@[simp] theorem State.setIrq_irq (s : State) (l : List Lines) : (s.setIrq l).irq = l := rfl
@[simp] theorem State.setIrq_ticks (s : State) (l : List Lines) : (s.setIrq l).ticks = s.ticks := rfl
@[simp] theorem State.setIrq_draws (s : State) (l : List Lines) : (s.setIrq l).draws = s.draws := rfl
@[simp] theorem State.setIrq_cfg (s : State) (l : List Lines) : (s.setIrq l).cfg = s.cfg := rfl
@[simp] theorem State.setIrq_readGpr (s : State) (l : List Lines) (r : Reg) : (s.setIrq l).readGpr r = s.readGpr r := rfl
@[simp] theorem State.setTicks_gpr (s : State) (l : List Bool) : (s.setTicks l).gpr = s.gpr := rfl
@[simp] theorem State.setTicks_pc (s : State) (l : List Bool) : (s.setTicks l).pc = s.pc := rfl
@[simp] theorem State.setTicks_hi (s : State) (l : List Bool) : (s.setTicks l).hi = s.hi := rfl
@[simp] theorem State.setTicks_lo (s : State) (l : List Bool) : (s.setTicks l).lo = s.lo := rfl
@[simp] theorem State.setTicks_status (s : State) (l : List Bool) : (s.setTicks l).status = s.status := rfl
@[simp] theorem State.setTicks_cause (s : State) (l : List Bool) : (s.setTicks l).cause = s.cause := rfl
@[simp] theorem State.setTicks_epc (s : State) (l : List Bool) : (s.setTicks l).epc = s.epc := rfl
@[simp] theorem State.setTicks_mem (s : State) (l : List Bool) : (s.setTicks l).mem = s.mem := rfl
@[simp] theorem State.setTicks_stored (s : State) (l : List Bool) : (s.setTicks l).stored = s.stored := rfl
@[simp] theorem State.setTicks_irq (s : State) (l : List Bool) : (s.setTicks l).irq = s.irq := rfl
@[simp] theorem State.setTicks_ticks (s : State) (l : List Bool) : (s.setTicks l).ticks = l := rfl
@[simp] theorem State.setTicks_draws (s : State) (l : List Bool) : (s.setTicks l).draws = s.draws := rfl
@[simp] theorem State.setTicks_cfg (s : State) (l : List Bool) : (s.setTicks l).cfg = s.cfg := rfl
@[simp] theorem State.setTicks_readGpr (s : State) (l : List Bool) (r : Reg) : (s.setTicks l).readGpr r = s.readGpr r := rfl
@[simp] theorem State.draw_gpr (s : State) (n : Nat) : (s.draw n).gpr = s.gpr := rfl
@[simp] theorem State.draw_pc (s : State) (n : Nat) : (s.draw n).pc = s.pc := rfl
@[simp] theorem State.draw_hi (s : State) (n : Nat) : (s.draw n).hi = s.hi := rfl
@[simp] theorem State.draw_lo (s : State) (n : Nat) : (s.draw n).lo = s.lo := rfl
@[simp] theorem State.draw_status (s : State) (n : Nat) : (s.draw n).status = s.status := rfl
@[simp] theorem State.draw_cause (s : State) (n : Nat) : (s.draw n).cause = s.cause := rfl
@[simp] theorem State.draw_epc (s : State) (n : Nat) : (s.draw n).epc = s.epc := rfl
@[simp] theorem State.draw_mem (s : State) (n : Nat) : (s.draw n).mem = s.mem := rfl
@[simp] theorem State.draw_stored (s : State) (n : Nat) : (s.draw n).stored = s.stored := rfl
@[simp] theorem State.draw_irq (s : State) (n : Nat) : (s.draw n).irq = s.irq := rfl
@[simp] theorem State.draw_ticks (s : State) (n : Nat) : (s.draw n).ticks = s.ticks := rfl
@[simp] theorem State.draw_draws (s : State) (n : Nat) : (s.draw n).draws = s.draws + n := rfl
@[simp] theorem State.draw_cfg (s : State) (n : Nat) : (s.draw n).cfg = s.cfg := rfl
@[simp] theorem State.draw_readGpr (s : State) (n : Nat) (r : Reg) : (s.draw n).readGpr r = s.readGpr r := rfl
@[simp] theorem State.advance_gpr (s : State) : s.advance.gpr = s.gpr := rfl
@[simp] theorem State.advance_pc (s : State) : s.advance.pc = s.pc + 4#32 := rfl
@[simp] theorem State.advance_hi (s : State) : s.advance.hi = s.hi := rfl
@[simp] theorem State.advance_lo (s : State) : s.advance.lo = s.lo := rfl
@[simp] theorem State.advance_status (s : State) : s.advance.status = s.status := rfl
@[simp] theorem State.advance_cause (s : State) : s.advance.cause = s.cause := rfl
@[simp] theorem State.advance_epc (s : State) : s.advance.epc = s.epc := rfl
@[simp] theorem State.advance_mem (s : State) : s.advance.mem = s.mem := rfl
@[simp] theorem State.advance_stored (s : State) : s.advance.stored = s.stored := rfl
@[simp] theorem State.advance_irq (s : State) : s.advance.irq = s.irq := rfl
@[simp] theorem State.advance_ticks (s : State) : s.advance.ticks = s.ticks := rfl
@[simp] theorem State.advance_draws (s : State) : s.advance.draws = s.draws := rfl
@[simp] theorem State.advance_cfg (s : State) : s.advance.cfg = s.cfg := rfl
@[simp] theorem State.advance_readGpr (s : State) (r : Reg) : s.advance.readGpr r = s.readGpr r := rfl
@[simp] theorem State.setIe_gpr (s : State) (b : Bool) : (s.setIe b).gpr = s.gpr := rfl
@[simp] theorem State.setIe_pc (s : State) (b : Bool) : (s.setIe b).pc = s.pc := rfl
@[simp] theorem State.setIe_hi (s : State) (b : Bool) : (s.setIe b).hi = s.hi := rfl
@[simp] theorem State.setIe_lo (s : State) (b : Bool) : (s.setIe b).lo = s.lo := rfl
@[simp] theorem State.setIe_cause (s : State) (b : Bool) : (s.setIe b).cause = s.cause := rfl
@[simp] theorem State.setIe_epc (s : State) (b : Bool) : (s.setIe b).epc = s.epc := rfl
@[simp] theorem State.setIe_mem (s : State) (b : Bool) : (s.setIe b).mem = s.mem := rfl
@[simp] theorem State.setIe_stored (s : State) (b : Bool) : (s.setIe b).stored = s.stored := rfl
@[simp] theorem State.setIe_irq (s : State) (b : Bool) : (s.setIe b).irq = s.irq := rfl
@[simp] theorem State.setIe_ticks (s : State) (b : Bool) : (s.setIe b).ticks = s.ticks := rfl
@[simp] theorem State.setIe_draws (s : State) (b : Bool) : (s.setIe b).draws = s.draws := rfl
@[simp] theorem State.setIe_cfg (s : State) (b : Bool) : (s.setIe b).cfg = s.cfg := rfl
@[simp] theorem State.setIe_readGpr (s : State) (b : Bool) (r : Reg) : (s.setIe b).readGpr r = s.readGpr r := rfl
@[simp] theorem State.setBr_gpr (s : State) (b : Bool) : (s.setBr b).gpr = s.gpr := rfl
@[simp] theorem State.setBr_pc (s : State) (b : Bool) : (s.setBr b).pc = s.pc := rfl
@[simp] theorem State.setBr_hi (s : State) (b : Bool) : (s.setBr b).hi = s.hi := rfl
@[simp] theorem State.setBr_lo (s : State) (b : Bool) : (s.setBr b).lo = s.lo := rfl
@[simp] theorem State.setBr_status (s : State) (b : Bool) : (s.setBr b).status = s.status := rfl
@[simp] theorem State.setBr_epc (s : State) (b : Bool) : (s.setBr b).epc = s.epc := rfl
@[simp] theorem State.setBr_mem (s : State) (b : Bool) : (s.setBr b).mem = s.mem := rfl
@[simp] theorem State.setBr_stored (s : State) (b : Bool) : (s.setBr b).stored = s.stored := rfl
@[simp] theorem State.setBr_irq (s : State) (b : Bool) : (s.setBr b).irq = s.irq := rfl
@[simp] theorem State.setBr_ticks (s : State) (b : Bool) : (s.setBr b).ticks = s.ticks := rfl
@[simp] theorem State.setBr_draws (s : State) (b : Bool) : (s.setBr b).draws = s.draws := rfl
@[simp] theorem State.setBr_cfg (s : State) (b : Bool) : (s.setBr b).cfg = s.cfg := rfl
@[simp] theorem State.setBr_readGpr (s : State) (b : Bool) (r : Reg) : (s.setBr b).readGpr r = s.readGpr r := rfl
@[simp] theorem State.setExc_gpr (s : State) (code : BitVec 5) : (s.setExc code).gpr = s.gpr := rfl
@[simp] theorem State.setExc_pc (s : State) (code : BitVec 5) : (s.setExc code).pc = s.pc := rfl
@[simp] theorem State.setExc_hi (s : State) (code : BitVec 5) : (s.setExc code).hi = s.hi := rfl
@[simp] theorem State.setExc_lo (s : State) (code : BitVec 5) : (s.setExc code).lo = s.lo := rfl
@[simp] theorem State.setExc_status (s : State) (code : BitVec 5) : (s.setExc code).status = s.status := rfl
@[simp] theorem State.setExc_epc (s : State) (code : BitVec 5) : (s.setExc code).epc = s.epc := rfl
@[simp] theorem State.setExc_mem (s : State) (code : BitVec 5) : (s.setExc code).mem = s.mem := rfl
@[simp] theorem State.setExc_stored (s : State) (code : BitVec 5) : (s.setExc code).stored = s.stored := rfl
@[simp] theorem State.setExc_irq (s : State) (code : BitVec 5) : (s.setExc code).irq = s.irq := rfl
@[simp] theorem State.setExc_ticks (s : State) (code : BitVec 5) : (s.setExc code).ticks = s.ticks := rfl
@[simp] theorem State.setExc_draws (s : State) (code : BitVec 5) : (s.setExc code).draws = s.draws := rfl
@[simp] theorem State.setExc_cfg (s : State) (code : BitVec 5) : (s.setExc code).cfg = s.cfg := rfl
@[simp] theorem State.setExc_readGpr (s : State) (code : BitVec 5) (r : Reg) : (s.setExc code).readGpr r = s.readGpr r := rfl
@[simp] theorem State.raiseLines_gpr (s : State) (l : Lines) : (s.raiseLines l).gpr = s.gpr := rfl
@[simp] theorem State.raiseLines_pc (s : State) (l : Lines) : (s.raiseLines l).pc = s.pc := rfl
@[simp] theorem State.raiseLines_hi (s : State) (l : Lines) : (s.raiseLines l).hi = s.hi := rfl
@[simp] theorem State.raiseLines_lo (s : State) (l : Lines) : (s.raiseLines l).lo = s.lo := rfl
@[simp] theorem State.raiseLines_status (s : State) (l : Lines) : (s.raiseLines l).status = s.status := rfl
@[simp] theorem State.raiseLines_epc (s : State) (l : Lines) : (s.raiseLines l).epc = s.epc := rfl
@[simp] theorem State.raiseLines_mem (s : State) (l : Lines) : (s.raiseLines l).mem = s.mem := rfl
@[simp] theorem State.raiseLines_stored (s : State) (l : Lines) : (s.raiseLines l).stored = s.stored := rfl
@[simp] theorem State.raiseLines_irq (s : State) (l : Lines) : (s.raiseLines l).irq = s.irq := rfl
@[simp] theorem State.raiseLines_ticks (s : State) (l : Lines) : (s.raiseLines l).ticks = s.ticks := rfl
@[simp] theorem State.raiseLines_draws (s : State) (l : Lines) : (s.raiseLines l).draws = s.draws := rfl
@[simp] theorem State.raiseLines_cfg (s : State) (l : Lines) : (s.raiseLines l).cfg = s.cfg := rfl
@[simp] theorem State.raiseLines_readGpr (s : State) (l : Lines) (r : Reg) : (s.raiseLines l).readGpr r = s.readGpr r := rfl
@[simp] theorem State.writeGpr_pc (s : State) (r : Reg) (v : Word) : (s.writeGpr r v).pc = s.pc := by
  unfold State.writeGpr; split <;> rfl
@[simp] theorem State.writeGpr_hi (s : State) (r : Reg) (v : Word) : (s.writeGpr r v).hi = s.hi := by
  unfold State.writeGpr; split <;> rfl
@[simp] theorem State.writeGpr_lo (s : State) (r : Reg) (v : Word) : (s.writeGpr r v).lo = s.lo := by
  unfold State.writeGpr; split <;> rfl
@[simp] theorem State.writeGpr_status (s : State) (r : Reg) (v : Word) : (s.writeGpr r v).status = s.status := by
  unfold State.writeGpr; split <;> rfl
@[simp] theorem State.writeGpr_cause (s : State) (r : Reg) (v : Word) : (s.writeGpr r v).cause = s.cause := by
  unfold State.writeGpr; split <;> rfl
@[simp] theorem State.writeGpr_epc (s : State) (r : Reg) (v : Word) : (s.writeGpr r v).epc = s.epc := by
  unfold State.writeGpr; split <;> rfl
@[simp] theorem State.writeGpr_mem (s : State) (r : Reg) (v : Word) : (s.writeGpr r v).mem = s.mem := by
  unfold State.writeGpr; split <;> rfl
@[simp] theorem State.writeGpr_stored (s : State) (r : Reg) (v : Word) : (s.writeGpr r v).stored = s.stored := by
  unfold State.writeGpr; split <;> rfl
@[simp] theorem State.writeGpr_irq (s : State) (r : Reg) (v : Word) : (s.writeGpr r v).irq = s.irq := by
  unfold State.writeGpr; split <;> rfl
@[simp] theorem State.writeGpr_ticks (s : State) (r : Reg) (v : Word) : (s.writeGpr r v).ticks = s.ticks := by
  unfold State.writeGpr; split <;> rfl
@[simp] theorem State.writeGpr_draws (s : State) (r : Reg) (v : Word) : (s.writeGpr r v).draws = s.draws := by
  unfold State.writeGpr; split <;> rfl
@[simp] theorem State.writeGpr_cfg (s : State) (r : Reg) (v : Word) : (s.writeGpr r v).cfg = s.cfg := by
  unfold State.writeGpr; split <;> rfl
@[simp] theorem State.takeException_gpr (s : State) (e : Exc) (br : Bool) (epc : Word) :
    (s.takeException e br epc).gpr = s.gpr := rfl
@[simp] theorem State.takeException_pc (s : State) (e : Exc) (br : Bool) (epc : Word) :
    (s.takeException e br epc).pc = s.cfg.excVector := rfl
@[simp] theorem State.takeException_hi (s : State) (e : Exc) (br : Bool) (epc : Word) :
    (s.takeException e br epc).hi = s.hi := rfl
@[simp] theorem State.takeException_lo (s : State) (e : Exc) (br : Bool) (epc : Word) :
    (s.takeException e br epc).lo = s.lo := rfl
@[simp] theorem State.takeException_epc (s : State) (e : Exc) (br : Bool) (epc : Word) :
    (s.takeException e br epc).epc = epc := rfl
@[simp] theorem State.takeException_mem (s : State) (e : Exc) (br : Bool) (epc : Word) :
    (s.takeException e br epc).mem = s.mem := rfl
@[simp] theorem State.takeException_stored (s : State) (e : Exc) (br : Bool) (epc : Word) :
    (s.takeException e br epc).stored = s.stored := rfl
@[simp] theorem State.takeException_irq (s : State) (e : Exc) (br : Bool) (epc : Word) :
    (s.takeException e br epc).irq = s.irq := rfl
@[simp] theorem State.takeException_ticks (s : State) (e : Exc) (br : Bool) (epc : Word) :
    (s.takeException e br epc).ticks = s.ticks := rfl
@[simp] theorem State.takeException_draws (s : State) (e : Exc) (br : Bool) (epc : Word) :
    (s.takeException e br epc).draws = s.draws := rfl
@[simp] theorem State.takeException_cfg (s : State) (e : Exc) (br : Bool) (epc : Word) :
    (s.takeException e br epc).cfg = s.cfg := rfl
@[simp] theorem State.takeException_readGpr (s : State) (e : Exc) (br : Bool) (epc : Word) (r : Reg) :
    (s.takeException e br epc).readGpr r = s.readGpr r := rfl
@[simp] theorem State.returnFromException_gpr (s : State) : s.returnFromException.gpr = s.gpr := rfl
@[simp] theorem State.returnFromException_pc (s : State) : s.returnFromException.pc = s.epc := rfl
@[simp] theorem State.returnFromException_hi (s : State) : s.returnFromException.hi = s.hi := rfl
@[simp] theorem State.returnFromException_lo (s : State) : s.returnFromException.lo = s.lo := rfl
@[simp] theorem State.returnFromException_epc (s : State) : s.returnFromException.epc = s.epc := rfl
@[simp] theorem State.returnFromException_mem (s : State) : s.returnFromException.mem = s.mem := rfl
@[simp] theorem State.returnFromException_stored (s : State) : s.returnFromException.stored = s.stored := rfl
@[simp] theorem State.returnFromException_irq (s : State) : s.returnFromException.irq = s.irq := rfl
@[simp] theorem State.returnFromException_ticks (s : State) : s.returnFromException.ticks = s.ticks := rfl
@[simp] theorem State.returnFromException_draws (s : State) : s.returnFromException.draws = s.draws + 1 := rfl
@[simp] theorem State.returnFromException_cfg (s : State) : s.returnFromException.cfg = s.cfg := rfl
@[simp] theorem State.returnFromException_readGpr (s : State) (r : Reg) :
    s.returnFromException.readGpr r = s.readGpr r := rfl
@[simp] theorem State.storeBytes_gpr (s : State) (w : Width) (ea v : Word) : (s.storeBytes w ea v).gpr = s.gpr := rfl
@[simp] theorem State.storeBytes_pc (s : State) (w : Width) (ea v : Word) : (s.storeBytes w ea v).pc = s.pc := rfl
@[simp] theorem State.storeBytes_hi (s : State) (w : Width) (ea v : Word) : (s.storeBytes w ea v).hi = s.hi := rfl
@[simp] theorem State.storeBytes_lo (s : State) (w : Width) (ea v : Word) : (s.storeBytes w ea v).lo = s.lo := rfl
@[simp] theorem State.storeBytes_status (s : State) (w : Width) (ea v : Word) : (s.storeBytes w ea v).status = s.status := rfl
@[simp] theorem State.storeBytes_cause (s : State) (w : Width) (ea v : Word) : (s.storeBytes w ea v).cause = s.cause := rfl
@[simp] theorem State.storeBytes_epc (s : State) (w : Width) (ea v : Word) : (s.storeBytes w ea v).epc = s.epc := rfl
@[simp] theorem State.storeBytes_irq (s : State) (w : Width) (ea v : Word) : (s.storeBytes w ea v).irq = s.irq := rfl
@[simp] theorem State.storeBytes_ticks (s : State) (w : Width) (ea v : Word) : (s.storeBytes w ea v).ticks = s.ticks := rfl
@[simp] theorem State.storeBytes_draws (s : State) (w : Width) (ea v : Word) : (s.storeBytes w ea v).draws = s.draws := rfl
@[simp] theorem State.storeBytes_cfg (s : State) (w : Width) (ea v : Word) : (s.storeBytes w ea v).cfg = s.cfg := rfl
@[simp] theorem State.storeBytes_readGpr (s : State) (w : Width) (ea v : Word) (r : Reg) :
    (s.storeBytes w ea v).readGpr r = s.readGpr r := rfl
@[simp] theorem State.latchIrq_gpr (s : State) : s.latchIrq.gpr = s.gpr := by
  unfold State.latchIrq; split <;> rfl
@[simp] theorem State.latchIrq_pc (s : State) : s.latchIrq.pc = s.pc := by
  unfold State.latchIrq; split <;> rfl
@[simp] theorem State.latchIrq_hi (s : State) : s.latchIrq.hi = s.hi := by
  unfold State.latchIrq; split <;> rfl
@[simp] theorem State.latchIrq_lo (s : State) : s.latchIrq.lo = s.lo := by
  unfold State.latchIrq; split <;> rfl
@[simp] theorem State.latchIrq_status (s : State) : s.latchIrq.status = s.status := by
  unfold State.latchIrq; split <;> rfl
@[simp] theorem State.latchIrq_epc (s : State) : s.latchIrq.epc = s.epc := by
  unfold State.latchIrq; split <;> rfl
@[simp] theorem State.latchIrq_mem (s : State) : s.latchIrq.mem = s.mem := by
  unfold State.latchIrq; split <;> rfl
@[simp] theorem State.latchIrq_stored (s : State) : s.latchIrq.stored = s.stored := by
  unfold State.latchIrq; split <;> rfl
@[simp] theorem State.latchIrq_ticks (s : State) : s.latchIrq.ticks = s.ticks.tail := rfl
@[simp] theorem State.latchIrq_draws (s : State) : s.latchIrq.draws = s.draws := by
  unfold State.latchIrq; split <;> rfl
@[simp] theorem State.latchIrq_cfg (s : State) : s.latchIrq.cfg = s.cfg := by
  unfold State.latchIrq; split <;> rfl
@[simp] theorem State.latchIrq_readGpr (s : State) (r : Reg) : s.latchIrq.readGpr r = s.readGpr r := by
  unfold State.latchIrq; split <;> rfl

/-- x[0] reads as zero in every state (10_state.md R11). -/
@[simp] theorem State.readGpr_zero (s : State) : s.readGpr 0#5 = 0#32 := by
  simp [State.readGpr]

/-- A write to x[0] is discarded (10_state.md R11). -/
@[simp] theorem State.writeGpr_zero (s : State) (v : Word) : s.writeGpr 0#5 v = s := by
  simp [State.writeGpr]

/-- Reading a register after a write: the value at the register written, unless it is x[0]; any other as before. -/
theorem State.readGpr_writeGpr (s : State) (d : Reg) (v : Word) (r : Reg) :
    (s.writeGpr d v).readGpr r = if r = d ∧ d ≠ 0#5 then v else s.readGpr r := by
  by_cases hd : d = 0#5
  · subst hd; simp
  by_cases hr : r = 0#5
  · subst hr
    have : ¬(0#5 = d ∧ d ≠ 0#5) := fun h => h.2 h.1.symm
    simp [this]
  by_cases h : r = d
  · subst h; simp [State.readGpr, State.writeGpr, hr]
  · have hn : d.toNat ≠ r.toNat := fun e => h (BitVec.eq_of_toNat_eq e.symm)
    simp [State.readGpr, State.writeGpr, hd, hr, h, Vector.getElem_set_ne _ _ hn]

/-- Entry 0 of the register file, which nothing reads, is never written. -/
@[simp] theorem State.writeGpr_gpr_zero (s : State) (d : Reg) (v : Word) : (s.writeGpr d v).gpr[0] = s.gpr[0] := by
  unfold State.writeGpr
  split
  · rfl
  · next h =>
    have hn : d.toNat ≠ 0 := fun e => h (BitVec.eq_of_toNat_eq e)
    simp [Vector.getElem_set_ne _ _ hn]

end Sys2Proof.Machine
end

