-- ==== Sys2Proof/Laws/Access.lean ====
section
/-! SUPPORT. What each shared memory and CP0 operation can do, said once: when it answers, with what, and when it
stops. -/

namespace Sys2Proof.Machine

theorem andThen_next {α β : Type} {r : Result α} {f : α → Result β} {b : β} :
    andThen r f = .next b ↔ ∃ a, r = .next a ∧ f a = .next b := by
  cases r with
  | next a => simp [andThen]
  | fault e => simp [andThen]
  | refused e => simp [andThen]

@[simp] theorem andThen_of_next {α β : Type} (a : α) (f : α → Result β) : andThen (.next a) f = f a := rfl
@[simp] theorem andThen_of_fault {α β : Type} (e : Fault) (f : α → Result β) :
    andThen (.fault e) f = .fault e := rfl
@[simp] theorem andThen_of_refused {α β : Type} (e : Refusal) (f : α → Result β) :
    andThen (.refused e) f = .refused e := rfl

/-- A class among those of an access that does not wrap. -/
theorem mem_classes {s : State} {k : Access} {ea : Word} {n : Nat} (h : ea.toNat + n ≤ 2 ^ 32) (c : ByteClass) :
    c ∈ (accessAddrs ea n).map (classify s.cfg.memMap k) ↔ ∃ j < n, classify s.cfg.memMap k (ea.toNat + j) = c := by
  simp only [List.mem_map, mem_accessAddrs h]
  constructor
  · rintro ⟨a, ⟨j, hj, rfl⟩, hc⟩; exact ⟨j, hj, hc⟩
  · rintro ⟨j, hj, hc⟩; exact ⟨_, ⟨j, hj, rfl⟩, hc⟩

/-- The existence check passes exactly if every byte is plain memory for the access. -/
theorem checkMapped_next {s : State} {k : Access} {ea : Word} {n : Nat} (h : ea.toNat + n ≤ 2 ^ 32) :
    s.checkMapped k ea n = .next () ↔ AllPlain s k ea n := by
  simp only [State.checkMapped, mem_classes h, AllPlain]
  constructor
  · intro hc j hj
    split at hc
    · cases hc
    split at hc
    · cases hc
    split at hc
    · cases hc
    next h1 h2 h3 =>
    cases hcl : classify s.cfg.memMap k (ea.toNat + j) with
    | unmapped => exact absurd ⟨j, hj, hcl⟩ h1
    | readOnly => exact absurd ⟨j, hj, hcl⟩ h2
    | device => exact absurd ⟨j, hj, hcl⟩ h3
    | plain => rfl
  · intro hp
    have no : ∀ c, c ≠ ByteClass.plain → ¬∃ j < n, classify s.cfg.memMap k (ea.toNat + j) = c := by
      rintro c hc ⟨j, hj, he⟩; exact hc (he.symm.trans (hp j hj))
    rw [if_neg (no _ (by simp)), if_neg (no _ (by simp)), if_neg (no _ (by simp))]

/-- The existence check is the fault UnmappedAccess exactly if some byte is outside MEM_MAP (20_memory.md R47). -/
theorem checkMapped_unmapped {s : State} {k : Access} {ea : Word} {n : Nat} (h : ea.toNat + n ≤ 2 ^ 32) :
    s.checkMapped k ea n = .fault .unmappedAccess ↔ SomeUnmapped s k ea n := by
  simp only [State.checkMapped, mem_classes h, SomeUnmapped]
  constructor
  · intro hc
    split at hc
    · assumption
    split at hc
    · cases hc
    split at hc <;> cases hc
  · intro hp; rw [if_pos hp]

/-- The existence check of an access inside MEM_MAP stops at a read-only byte of a store (log 7). -/
theorem checkMapped_readOnly {s : State} {ea : Word} {n : Nat} (h : ea.toNat + n ≤ 2 ^ 32)
    (hu : ¬SomeUnmapped s .store ea n) (hr : SomeReadOnly s ea n) :
    s.checkMapped .store ea n = .fault .readOnlyStore := by
  unfold SomeUnmapped at hu
  unfold SomeReadOnly at hr
  simp only [State.checkMapped, mem_classes h, if_neg hu, if_pos hr]

/-- Only a store finds a read-only byte. -/
theorem classify_readOnly {m : List Region} {k : Access} {a : Nat} (h : classify m k a = .readOnly) : k = .store := by
  unfold classify at h
  split at h
  · cases h
  split at h
  · cases h
  · split at h
    · assumption
    · cases h
  · cases h

/-- The existence check of an access inside MEM_MAP stops at a device byte, unless it stores to a read-only one (log 7). -/
theorem checkMapped_device {s : State} {k : Access} {ea : Word} {n : Nat} (h : ea.toNat + n ≤ 2 ^ 32)
    (hu : ¬SomeUnmapped s k ea n) (hr : ¬(k = .store ∧ SomeReadOnly s ea n)) (hd : SomeDevice s k ea n) :
    s.checkMapped k ea n = .refused .deviceAccess := by
  have hn : ¬∃ j < n, classify s.cfg.memMap k (ea.toNat + j) = .readOnly := by
    rintro ⟨j, hj, hc⟩
    obtain rfl := classify_readOnly hc
    exact hr ⟨rfl, j, hj, hc⟩
  unfold SomeUnmapped at hu
  unfold SomeDevice at hd
  simp only [State.checkMapped, mem_classes h, if_neg hu, if_neg hn, if_pos hd]

/-- What a data read can answer: the bytes at an aligned address of plain memory. -/
theorem memRead_next {s : State} {w : Width} {ea v : Word} :
    s.memRead w ea = .next v ↔
      aligned w ea = true ∧ AllPlain s .load ea w.bytes ∧
        v = wordOfBytes s.cfg.endian (Memory.readBytes s.mem ea w.bytes) := by
  unfold State.memRead
  by_cases ha : aligned w ea = true
  · simp only [ha, if_true, true_and, andThen_next]
    constructor
    · rintro ⟨⟨⟩, h1, h2⟩
      injection h2 with h2
      exact ⟨(checkMapped_next (aligned_no_wrap ha)).1 h1, h2.symm⟩
    · rintro ⟨h1, rfl⟩; exact ⟨(), (checkMapped_next (aligned_no_wrap ha)).2 h1, rfl⟩
  · simp [ha]

/-- What a data write can answer: the bytes stored at an aligned address of plain memory. -/
theorem memWrite_next {s t : State} {w : Width} {ea v : Word} :
    s.memWrite w ea v = .next t ↔
      aligned w ea = true ∧ AllPlain s .store ea w.bytes ∧ t = s.storeBytes w ea v := by
  unfold State.memWrite
  by_cases ha : aligned w ea = true
  · simp only [ha, if_true, true_and, andThen_next]
    constructor
    · rintro ⟨⟨⟩, h1, h2⟩
      injection h2 with h2
      exact ⟨(checkMapped_next (aligned_no_wrap ha)).1 h1, h2.symm⟩
    · rintro ⟨h1, rfl⟩; exact ⟨(), (checkMapped_next (aligned_no_wrap ha)).2 h1, rfl⟩
  · simp [ha]

theorem memRead_misaligned {s : State} {w : Width} {ea : Word} (h : aligned w ea = false) :
    s.memRead w ea = .fault .misalignedAccess := by
  simp [State.memRead, h]

theorem memWrite_misaligned {s : State} {w : Width} {ea v : Word} (h : aligned w ea = false) :
    s.memWrite w ea v = .fault .misalignedAccess := by
  simp [State.memWrite, h]

theorem memRead_unmapped {s : State} {w : Width} {ea : Word} (ha : aligned w ea = true)
    (h : SomeUnmapped s .load ea w.bytes) : s.memRead w ea = .fault .unmappedAccess := by
  simp [State.memRead, ha, (checkMapped_unmapped (aligned_no_wrap ha)).2 h]

theorem memWrite_unmapped {s : State} {w : Width} {ea v : Word} (ha : aligned w ea = true)
    (h : SomeUnmapped s .store ea w.bytes) : s.memWrite w ea v = .fault .unmappedAccess := by
  simp [State.memWrite, ha, (checkMapped_unmapped (aligned_no_wrap ha)).2 h]

theorem memRead_device {s : State} {w : Width} {ea : Word} (ha : aligned w ea = true)
    (hu : ¬SomeUnmapped s .load ea w.bytes) (hd : SomeDevice s .load ea w.bytes) :
    s.memRead w ea = .refused .deviceAccess := by
  simp [State.memRead, ha, checkMapped_device (aligned_no_wrap ha) hu (by simp) hd]

theorem memWrite_readOnly {s : State} {w : Width} {ea v : Word} (ha : aligned w ea = true)
    (hu : ¬SomeUnmapped s .store ea w.bytes) (hr : SomeReadOnly s ea w.bytes) :
    s.memWrite w ea v = .fault .readOnlyStore := by
  simp [State.memWrite, ha, checkMapped_readOnly (aligned_no_wrap ha) hu hr]

theorem memWrite_device {s : State} {w : Width} {ea v : Word} (ha : aligned w ea = true)
    (hu : ¬SomeUnmapped s .store ea w.bytes) (hr : ¬SomeReadOnly s ea w.bytes) (hd : SomeDevice s .store ea w.bytes) :
    s.memWrite w ea v = .refused .deviceAccess := by
  simp [State.memWrite, ha, checkMapped_device (aligned_no_wrap ha) hu (by simp [hr]) hd]

/-- Some byte of the word at an address has been stored to. -/
theorem any_stored_iff {s : State} {a : Word} (ha : aligned .word a = true) :
    ((accessAddrs a 4).any fun b => decide (b ∈ s.stored)) = true ↔ ∃ j < 4, a.toNat + j ∈ s.stored := by
  simp only [List.any_eq_true, mem_accessAddrs (aligned_word_no_wrap ha), decide_eq_true_eq]
  constructor
  · rintro ⟨b, ⟨j, hj, rfl⟩, h⟩; exact ⟨j, hj, h⟩
  · rintro ⟨j, hj, h⟩; exact ⟨_, ⟨j, hj, rfl⟩, h⟩

/-- What a fetch can answer: the word at an aligned address of fetchable memory that no store has touched. -/
theorem memFetch_next {s : State} {a v : Word} :
    s.memFetch a = .next v ↔
      aligned .word a = true ∧ AllPlain s .fetch a 4 ∧ (∀ j < 4, a.toNat + j ∉ s.stored) ∧
        v = wordOfBytes s.cfg.endian (Memory.readBytes s.mem a 4) := by
  unfold State.memFetch
  by_cases ha : aligned .word a = true
  · have hst := any_stored_iff (s := s) ha
    simp only [ha, if_true, true_and, andThen_next]
    constructor
    · rintro ⟨⟨⟩, h1, h2⟩
      split at h2
      · cases h2
      next hn =>
      injection h2 with h2
      exact ⟨(checkMapped_next (aligned_word_no_wrap ha)).1 h1, fun j hj hm => hn (hst.2 ⟨j, hj, hm⟩), h2.symm⟩
    · rintro ⟨h1, h2, rfl⟩
      refine ⟨(), (checkMapped_next (aligned_word_no_wrap ha)).2 h1, ?_⟩
      rw [if_neg fun h => by obtain ⟨j, hj, hm⟩ := hst.1 h; exact h2 j hj hm]
  · simp [ha]

theorem memFetch_misaligned {s : State} {a : Word} (h : aligned .word a = false) :
    s.memFetch a = .fault .misalignedFetch := by
  simp [State.memFetch, h]

theorem memFetch_unmapped {s : State} {a : Word} (ha : aligned .word a = true) (h : SomeUnmapped s .fetch a 4) :
    s.memFetch a = .fault .unmappedAccess := by
  simp [State.memFetch, ha, (checkMapped_unmapped (aligned_word_no_wrap ha)).2 h]

theorem memFetch_stored {s : State} {a : Word} (ha : aligned .word a = true) (hp : AllPlain s .fetch a 4)
    (h : ∃ j < 4, a.toNat + j ∈ s.stored) : s.memFetch a = .fault .fetchAfterStore := by
  simp only [State.memFetch, ha, if_true, (checkMapped_next (aligned_word_no_wrap ha)).2 hp, andThen_of_next,
    (any_stored_iff ha).2 h]

theorem memFetch_device {s : State} {a : Word} (ha : aligned .word a = true) (hu : ¬SomeUnmapped s .fetch a 4)
    (hd : SomeDevice s .fetch a 4) : s.memFetch a = .refused .deviceAccess := by
  simp [State.memFetch, ha, checkMapped_device (aligned_word_no_wrap ha) hu (by simp) hd]

/-- A fetch is refused only at a device byte of an aligned word inside MEM_MAP. -/
theorem memFetch_refused {s : State} {a : Word} {f : Refusal} (h : s.memFetch a = .refused f) :
    aligned .word a = true ∧ ¬SomeUnmapped s .fetch a 4 ∧ SomeDevice s .fetch a 4 := by
  by_cases ha : aligned .word a = true
  · have hu : ¬SomeUnmapped s .fetch a 4 := fun hu => by rw [memFetch_unmapped ha hu] at h; cases h
    refine ⟨ha, hu, ?_⟩
    by_contra hd
    have hp : AllPlain s .fetch a 4 := fun j hj => by
      cases hc : classify s.cfg.memMap .fetch (a.toNat + j) with
      | unmapped => exact absurd ⟨j, hj, hc⟩ hu
      | readOnly => exact absurd (classify_readOnly hc) (by simp)
      | device => exact absurd ⟨j, hj, hc⟩ hd
      | plain => rfl
    simp only [State.memFetch, ha, if_true, (checkMapped_next (aligned_word_no_wrap ha)).2 hp, andThen_of_next] at h
    split at h <;> cases h
  · rw [memFetch_misaligned (by simpa using ha)] at h; cases h

/-- Fetch and decode are refused only where the fetch is. -/
theorem fetchInstr_refused {s : State} {f : Refusal} (h : s.fetchInstr = .refused f) :
    s.memFetch s.pc = .refused f := by
  unfold State.fetchInstr at h
  cases hm : s.memFetch s.pc with
  | next ir =>
    rw [hm, andThen_of_next] at h
    split at h <;> cases h
  | fault e => rw [hm] at h; cases h
  | refused e => rw [hm] at h; injection h with h; rw [h]

/-- Fetch and decode answer exactly the decoded instruction of a fetched word. -/
theorem fetchInstr_next {s : State} {i : Instr} :
    s.fetchInstr = .next i ↔ ∃ ir, s.memFetch s.pc = .next ir ∧ decodeWord s.cfg ir = .ok i := by
  simp only [State.fetchInstr, andThen_next]
  constructor
  · rintro ⟨ir, h1, h2⟩
    refine ⟨ir, h1, ?_⟩
    split at h2
    · next hd => injection h2 with h2; rw [hd, h2]
    · cases h2
  · rintro ⟨ir, h1, h2⟩; exact ⟨ir, h1, by rw [h2]⟩

/-- The bytes of a word at an aligned address, as 20_memory.md R43 assembles them. -/
theorem wordOfBytes_word {s : State} {ea : Word} (h : ea.toNat + 4 ≤ 2 ^ 32) :
    wordOfBytes s.cfg.endian (Memory.readBytes s.mem ea 4) = wordAt s.cfg.endian s.mem ea.toNat := by
  have e : Memory.readBytes s.mem ea 4 = [Memory.read s.mem ea.toNat, Memory.read s.mem (ea.toNat + 1),
      Memory.read s.mem (ea.toNat + 2), Memory.read s.mem (ea.toNat + 3)] := by
    refine List.ext_getElem (by simp) fun k h1 h2 => ?_
    rw [Memory.getElem_readBytes h h1]
    have : k < 4 := by simpa using h1
    interval_cases k <;> rfl
  rw [e]
  cases s.cfg.endian
  · exact wordLE_four _ _ _ _
  · exact wordLE_four _ _ _ _

/-- The bytes of a halfword at an aligned address, zero-extended. -/
theorem wordOfBytes_half {s : State} {ea : Word} (h : ea.toNat + 2 ≤ 2 ^ 32) :
    wordOfBytes s.cfg.endian (Memory.readBytes s.mem ea 2) = (halfAt s.cfg.endian s.mem ea.toNat).setWidth 32 := by
  have e : Memory.readBytes s.mem ea 2 = [Memory.read s.mem ea.toNat, Memory.read s.mem (ea.toNat + 1)] := by
    refine List.ext_getElem (by simp) fun k h1 h2 => ?_
    rw [Memory.getElem_readBytes h h1]
    have : k < 2 := by simpa using h1
    interval_cases k <;> rfl
  rw [e]
  cases s.cfg.endian
  · exact wordLE_two _ _
  · exact wordLE_two _ _

/-- The byte at an address, zero-extended. -/
theorem wordOfBytes_byte (s : State) (ea : Word) :
    wordOfBytes s.cfg.endian (Memory.readBytes s.mem ea 1) = (Memory.read s.mem ea.toNat).setWidth 32 := by
  cases s.cfg.endian <;> exact wordLE_one _

/-- What reading a CP0 register can answer. -/
theorem readCp0_next {s : State} {r : Reg} {sel : BitVec 3} {p : Word × State} :
    s.readCp0 r sel = .next p ↔ sel = 0#3 ∧
      ((r = 12#5 ∧ p = (mergeBits (Config.freeWord s.draws) s.status (statusMask s.cfg), s.draw 1)) ∨
        (r = 13#5 ∧ p = (mergeBits (Config.freeWord s.draws) s.cause (causeMask s.cfg), s.draw 1)) ∨
        (r = 14#5 ∧ p = (s.epc, s))) := by
  unfold State.readCp0
  by_cases h0 : sel = 0#3
  · by_cases h1 : r = 12#5
    · simp [h0, h1, eq_comm]
    · by_cases h2 : r = 13#5
      · simp [h0, h2, eq_comm]
      · by_cases h3 : r = 14#5 <;> simp [h0, h1, h2, h3, eq_comm]
  · simp [h0]

/-- What writing a CP0 register can answer. -/
theorem writeCp0_next {s t : State} {r : Reg} {v : Word} :
    s.writeCp0 r v = .next t ↔
      (r = 12#5 ∧ t = s.setStatus (mergeBits s.status v (statusMask s.cfg))) ∨
        (r = 13#5 ∧ t = s.setCause (mergeBits s.cause v (causeMask s.cfg))) ∨
        (r = 14#5 ∧ t = s.setEpc v) := by
  unfold State.writeCp0
  by_cases h1 : r = 12#5
  · simp [h1, eq_comm]
  · by_cases h2 : r = 13#5
    · simp [h2, eq_comm]
    · by_cases h3 : r = 14#5 <;> simp [h1, h2, h3, eq_comm]

end Sys2Proof.Machine
end

