-- ==== Sys2Proof/Laws/Bits.lean ====
section
/-! SUPPORT. The fields of Status and Cause (10_state.md R20 to R27): each named update changes its own field and no
other bit. -/

namespace Sys2Proof.Machine

theorem getLsbD_mergeBits (old new mask : Word) (k : Nat) :
    (mergeBits old new mask).getLsbD k = if mask.getLsbD k then new.getLsbD k else old.getLsbD k := by
  by_cases hk : k < 32
  · unfold mergeBits
    simp only [BitVec.getLsbD_or, BitVec.getLsbD_and, BitVec.getLsbD_not, hk, decide_true, Bool.true_and]
    cases mask.getLsbD k <;> simp
  · simp [BitVec.getLsbD_of_ge _ _ (Nat.le_of_not_lt hk)]

theorem getLsbD_bitWord (b : Bool) (k : Nat) : (bitWord b).getLsbD k = (decide (k < 32) && b) := by
  unfold bitWord
  by_cases hk : k < 32
  · cases b
    · simp
    · simp only [if_true, hk, decide_true, Bool.and_self]
      interval_cases k <;> decide
  · simp [BitVec.getLsbD_of_ge _ _ (Nat.le_of_not_lt hk), hk]

/-- The cell mask is the one bit of its index. -/
theorem getLsbD_cellMask (b : CellBit) (k : Nat) : (cellMask b).getLsbD k = decide (k = cellIndex b) := by
  by_cases hk : k < 32
  · cases b <;> interval_cases k <;> decide
  · have : k ≠ cellIndex b := by cases b <;> (simp only [cellIndex]; omega)
    simp [BitVec.getLsbD_of_ge _ _ (Nat.le_of_not_lt hk), this]

/-- Bits 28:9 are those of IM and IP. -/
theorem getLsbD_linesMask (k : Nat) : linesMask.getLsbD k = (decide (9 ≤ k) && decide (k < 29)) := by
  by_cases hk : k < 32
  · interval_cases k <;> decide
  · have : ¬ k < 29 := by omega
    simp [BitVec.getLsbD_of_ge _ _ (Nat.le_of_not_lt hk), this]

/-- Bits 6:2 are those of EXC. -/
theorem getLsbD_excMask (k : Nat) : excMask.getLsbD k = (decide (2 ≤ k) && decide (k < 7)) := by
  by_cases hk : k < 32
  · interval_cases k <;> decide
  · have : ¬ k < 7 := by omega
    simp [BitVec.getLsbD_of_ge _ _ (Nat.le_of_not_lt hk), this]

theorem cellIndex_ge (b : CellBit) : 29 ≤ cellIndex b := by cases b <;> decide

theorem cellIndex_lt (b : CellBit) : cellIndex b < 32 := by cases b <;> decide

@[simp] theorem getLsbD_statusMask (c : Config) (k : Nat) : (statusMask c).getLsbD k =
    (decide (k = cellIndex c.ieBit) || (decide (9 ≤ k) && decide (k < 29))) := by
  simp [statusMask, BitVec.getLsbD_or, getLsbD_cellMask, getLsbD_linesMask]

@[simp] theorem getLsbD_causeMask (c : Config) (k : Nat) : (causeMask c).getLsbD k =
    (decide (k = cellIndex c.brBit) || (decide (9 ≤ k) && decide (k < 29)) || (decide (2 ≤ k) && decide (k < 7))) := by
  simp [causeMask, BitVec.getLsbD_or, getLsbD_cellMask, getLsbD_linesMask, getLsbD_excMask]

/-! Each update, bit by bit. -/

theorem State.setIe_status_bit (s : State) (b : Bool) (k : Nat) :
    (s.setIe b).status.getLsbD k = if k = cellIndex s.cfg.ieBit then b else s.status.getLsbD k := by
  have := cellIndex_lt s.cfg.ieBit
  simp only [State.setIe, State.setStatus_status, getLsbD_mergeBits, getLsbD_cellMask, getLsbD_bitWord, decide_eq_true_eq]
  split <;> simp_all

theorem State.setBr_cause_bit (s : State) (b : Bool) (k : Nat) :
    (s.setBr b).cause.getLsbD k = if k = cellIndex s.cfg.brBit then b else s.cause.getLsbD k := by
  have := cellIndex_lt s.cfg.brBit
  simp only [State.setBr, State.setCause_cause, getLsbD_mergeBits, getLsbD_cellMask, getLsbD_bitWord, decide_eq_true_eq]
  split <;> simp_all

theorem State.setExc_cause_bit (s : State) (code : BitVec 5) (k : Nat) :
    (s.setExc code).cause.getLsbD k = if 2 ≤ k ∧ k < 7 then code.getLsbD (k - 2) else s.cause.getLsbD k := by
  simp only [State.setExc, State.setCause_cause, getLsbD_mergeBits, getLsbD_excMask, Bool.and_eq_true, decide_eq_true_eq]
  split
  · next h =>
    have h1 : k < 32 := by omega
    have h2 : ¬ k < 2 := by omega
    simp [h1, h2]
  · rfl

theorem State.raiseLines_cause_bit (s : State) (l : Lines) (k : Nat) :
    (s.raiseLines l).cause.getLsbD k = (s.cause.getLsbD k || (decide (9 ≤ k) && l.getLsbD (k - 9))) := by
  by_cases hk : k < 32
  · by_cases h9 : 9 ≤ k
    · have : ¬ k < 9 := by omega
      simp [State.raiseLines, hk, h9, this]
    · have : k < 9 := by omega
      simp [State.raiseLines, h9, this]
  · have h1 : 32 ≤ k := Nat.le_of_not_lt hk
    have h2 : l.getLsbD (k - 9) = false := BitVec.getLsbD_of_ge _ _ (by omega)
    simp [BitVec.getLsbD_of_ge _ _ h1, h2]

/-! Each field after each update. -/

@[simp] theorem State.setIe_ie (s : State) (b : Bool) : (s.setIe b).ie = b := by
  simp only [State.ie, State.setIe_cfg, State.setIe_status_bit, if_true]

@[simp] theorem State.setIe_im (s : State) (b : Bool) : (s.setIe b).im = s.im := by
  refine BitVec.eq_of_getLsbD_eq fun i hi => ?_
  have h1 := cellIndex_ge s.cfg.ieBit
  have h2 : ¬ 9 + i = cellIndex s.cfg.ieBit := by omega
  simp [State.im, BitVec.getLsbD_extractLsb', State.setIe_status_bit, h2]

@[simp] theorem State.setIe_br (s : State) (b : Bool) : (s.setIe b).br = s.br := rfl
@[simp] theorem State.setIe_ip (s : State) (b : Bool) : (s.setIe b).ip = s.ip := rfl
@[simp] theorem State.setIe_exc (s : State) (b : Bool) : (s.setIe b).exc = s.exc := rfl

@[simp] theorem State.setBr_br (s : State) (b : Bool) : (s.setBr b).br = b := by
  simp only [State.br, State.setBr_cfg, State.setBr_cause_bit, if_true]

@[simp] theorem State.setBr_ip (s : State) (b : Bool) : (s.setBr b).ip = s.ip := by
  refine BitVec.eq_of_getLsbD_eq fun i hi => ?_
  have h1 := cellIndex_ge s.cfg.brBit
  have h2 : ¬ 9 + i = cellIndex s.cfg.brBit := by omega
  simp [State.ip, BitVec.getLsbD_extractLsb', State.setBr_cause_bit, h2]

@[simp] theorem State.setBr_exc (s : State) (b : Bool) : (s.setBr b).exc = s.exc := by
  refine BitVec.eq_of_getLsbD_eq fun i hi => ?_
  have h1 := cellIndex_ge s.cfg.brBit
  have h2 : ¬ 2 + i = cellIndex s.cfg.brBit := by omega
  simp [State.exc, BitVec.getLsbD_extractLsb', State.setBr_cause_bit, h2]

@[simp] theorem State.setBr_ie (s : State) (b : Bool) : (s.setBr b).ie = s.ie := rfl
@[simp] theorem State.setBr_im (s : State) (b : Bool) : (s.setBr b).im = s.im := rfl

@[simp] theorem State.setExc_exc (s : State) (code : BitVec 5) : (s.setExc code).exc = code := by
  refine BitVec.eq_of_getLsbD_eq fun i hi => ?_
  have h2 : 2 + i < 7 := by omega
  simp [State.exc, State.setExc_cause_bit, hi, h2]

@[simp] theorem State.setExc_br (s : State) (code : BitVec 5) : (s.setExc code).br = s.br := by
  have h1 := cellIndex_ge s.cfg.brBit
  have h2 : ¬(2 ≤ cellIndex s.cfg.brBit ∧ cellIndex s.cfg.brBit < 7) := by omega
  simp only [State.br, State.setExc_cfg, State.setExc_cause_bit, h2, if_false]

@[simp] theorem State.setExc_ip (s : State) (code : BitVec 5) : (s.setExc code).ip = s.ip := by
  refine BitVec.eq_of_getLsbD_eq fun i hi => ?_
  have h2 : ¬(2 ≤ 9 + i ∧ 9 + i < 7) := by omega
  simp only [State.ip, BitVec.getLsbD_extractLsb', State.setExc_cause_bit, h2, if_false]

@[simp] theorem State.setExc_ie (s : State) (code : BitVec 5) : (s.setExc code).ie = s.ie := rfl
@[simp] theorem State.setExc_im (s : State) (code : BitVec 5) : (s.setExc code).im = s.im := rfl

@[simp] theorem State.raiseLines_ip (s : State) (l : Lines) : (s.raiseLines l).ip = s.ip ||| l := by
  refine BitVec.eq_of_getLsbD_eq fun i hi => ?_
  simp [State.ip, State.raiseLines_cause_bit, hi]

@[simp] theorem State.raiseLines_br (s : State) (l : Lines) : (s.raiseLines l).br = s.br := by
  have h1 := cellIndex_ge s.cfg.brBit
  have h2 : l.getLsbD (cellIndex s.cfg.brBit - 9) = false := BitVec.getLsbD_of_ge _ _ (by omega)
  simp [State.br, State.raiseLines_cause_bit, h2]

@[simp] theorem State.raiseLines_exc (s : State) (l : Lines) : (s.raiseLines l).exc = s.exc := by
  refine BitVec.eq_of_getLsbD_eq fun i hi => ?_
  have h2 : ¬ 9 ≤ 2 + i := by omega
  simp [State.exc, BitVec.getLsbD_extractLsb', State.raiseLines_cause_bit, h2]

@[simp] theorem State.raiseLines_ie (s : State) (l : Lines) : (s.raiseLines l).ie = s.ie := rfl
@[simp] theorem State.raiseLines_im (s : State) (l : Lines) : (s.raiseLines l).im = s.im := rfl

@[simp] theorem State.draw_ie (s : State) (n : Nat) : (s.draw n).ie = s.ie := rfl
@[simp] theorem State.draw_im (s : State) (n : Nat) : (s.draw n).im = s.im := rfl
@[simp] theorem State.draw_br (s : State) (n : Nat) : (s.draw n).br = s.br := rfl
@[simp] theorem State.draw_ip (s : State) (n : Nat) : (s.draw n).ip = s.ip := rfl
@[simp] theorem State.draw_exc (s : State) (n : Nat) : (s.draw n).exc = s.exc := rfl

/-! What the shared exception operations do, once (60_exceptions.md R262; 47_cp0_privileged.md R221). -/

@[simp] theorem State.takeException_exc (s : State) (e : Exc) (br : Bool) (epc : Word) :
    (s.takeException e br epc).exc = excCode s.cfg e := by
  show (((s.setEpc epc).setExc (excCode s.cfg e)).setBr br).exc = _
  simp

@[simp] theorem State.takeException_br (s : State) (e : Exc) (br : Bool) (epc : Word) :
    (s.takeException e br epc).br = br := by
  show (((s.setEpc epc).setExc (excCode s.cfg e)).setBr br).br = _
  simp

@[simp] theorem State.takeException_ip (s : State) (e : Exc) (br : Bool) (epc : Word) :
    (s.takeException e br epc).ip = s.ip := by
  show (((s.setEpc epc).setExc (excCode s.cfg e)).setBr br).ip = _
  simp only [State.setBr_ip, State.setExc_ip]; rfl

@[simp] theorem State.takeException_ie (s : State) (e : Exc) (br : Bool) (epc : Word) :
    (s.takeException e br epc).ie = false := by
  show (State.setIe _ false).ie = false
  simp

@[simp] theorem State.takeException_im (s : State) (e : Exc) (br : Bool) (epc : Word) :
    (s.takeException e br epc).im = s.im := by
  show (State.setIe _ false).im = s.im
  simp only [State.setIe_im]; rfl

theorem State.takeException_status_bit (s : State) (e : Exc) (br : Bool) (epc : Word) (k : Nat) :
    (s.takeException e br epc).status.getLsbD k =
      if k = cellIndex s.cfg.ieBit then false else s.status.getLsbD k := by
  show (State.setIe _ false).status.getLsbD k = _
  rw [State.setIe_status_bit]; rfl

theorem State.takeException_cause_bit (s : State) (e : Exc) (br : Bool) (epc : Word) (k : Nat) :
    (s.takeException e br epc).cause.getLsbD k =
      if k = cellIndex s.cfg.brBit then br
      else if 2 ≤ k ∧ k < 7 then (excCode s.cfg e).getLsbD (k - 2) else s.cause.getLsbD k := by
  show (State.setBr _ br).cause.getLsbD k = _
  rw [State.setBr_cause_bit, State.setExc_cause_bit]; rfl

@[simp] theorem State.returnFromException_ie (s : State) : s.returnFromException.ie = true := by
  show (State.setIe _ true).ie = true
  simp

@[simp] theorem State.returnFromException_im (s : State) : s.returnFromException.im = s.im := by
  show (State.setIe _ true).im = s.im
  simp only [State.setIe_im]; rfl

@[simp] theorem State.returnFromException_ip (s : State) : s.returnFromException.ip = s.ip := by
  show (State.setBr _ _).ip = s.ip
  simp only [State.setBr_ip, State.setExc_ip]

theorem State.returnFromException_status_bit (s : State) (k : Nat) :
    s.returnFromException.status.getLsbD k =
      if k = cellIndex s.cfg.ieBit then true else s.status.getLsbD k := by
  show (State.setIe _ true).status.getLsbD k = _
  rw [State.setIe_status_bit]; rfl

theorem State.returnFromException_cause_bit (s : State) (k : Nat)
    (h : (causeMask s.cfg).getLsbD k = false) : s.returnFromException.cause.getLsbD k = s.cause.getLsbD k := by
  show (State.setBr _ _).cause.getLsbD k = _
  rw [State.setBr_cause_bit, State.setExc_cause_bit]
  simp at h
  have h2 : ¬(2 ≤ k ∧ k < 7) := by omega
  simp [h, h2]

/-- A word has no bit outside a mask exactly if each of its bits outside the mask is zero. -/
theorem and_not_eq_zero_iff (w mask : Word) :
    w &&& ~~~mask = 0#32 ↔ ∀ k, mask.getLsbD k = false → w.getLsbD k = false := by
  constructor
  · intro h k hk
    by_cases hlt : k < 32
    · have hb := congrArg (fun x => x.getLsbD k) h
      simp only [BitVec.getLsbD_and, BitVec.getLsbD_not, hlt, hk, decide_true, Bool.not_false, Bool.and_true] at hb
      simpa using hb
    · exact BitVec.getLsbD_of_ge _ _ (Nat.le_of_not_lt hlt)
  · intro h
    refine BitVec.eq_of_getLsbD_eq fun k hk => ?_
    cases hm : mask.getLsbD k
    · simp [h k hm]
    · simp [hm]

end Sys2Proof.Machine
end

