-- ==== Sys2Proof/Laws/Decode.lean ====
section
/-! SUPPORT. The bits of encoded words, format by format, and what each field of one reads as. -/

namespace Sys2Proof

theorem getLsbD_rType (rs rt rd : Reg) (sh : Shamt) (fn : BitVec 6) (k : Nat) :
    (rType rs rt rd sh fn).getLsbD k =
      if k < 6 then fn.getLsbD k else if k < 11 then sh.getLsbD (k - 6) else if k < 16 then rd.getLsbD (k - 11)
      else if k < 21 then rt.getLsbD (k - 16) else rs.getLsbD (k - 21) := by
  refine (BitVec.getLsbD_append (x := 0#6 ++ rs ++ rt ++ rd ++ sh) (y := fn)).trans ?_
  by_cases h : k < 6
  · simp only [h, if_true]
  simp only [h, if_false]
  refine (BitVec.getLsbD_append (x := 0#6 ++ rs ++ rt ++ rd) (y := sh)).trans ?_
  by_cases h1 : k < 11
  · simp only [h1, show k - 6 < 5 by omega, if_true]
  simp only [h1, show ¬ k - 6 < 5 by omega, if_false]
  refine (BitVec.getLsbD_append (x := 0#6 ++ rs ++ rt) (y := rd)).trans ?_
  rw [show k - 6 - 5 = k - 11 by omega]
  by_cases h2 : k < 16
  · simp only [h2, show k - 11 < 5 by omega, if_true]
  simp only [h2, show ¬ k - 11 < 5 by omega, if_false]
  refine (BitVec.getLsbD_append (x := 0#6 ++ rs) (y := rt)).trans ?_
  rw [show k - 11 - 5 = k - 16 by omega]
  by_cases h3 : k < 21
  · simp only [h3, show k - 16 < 5 by omega, if_true]
  simp only [h3, show ¬ k - 16 < 5 by omega, if_false]
  refine (BitVec.getLsbD_append (x := 0#6) (y := rs)).trans ?_
  rw [show k - 16 - 5 = k - 21 by omega]
  by_cases h4 : k - 21 < 5
  · simp only [h4, if_true]
  · simp only [h4, if_false, BitVec.getLsbD_zero]
    exact (BitVec.getLsbD_of_ge _ _ (by omega)).symm

theorem getLsbD_iType (op : BitVec 6) (rs rt : Reg) (imm : Imm16) (k : Nat) :
    (iType op rs rt imm).getLsbD k =
      if k < 16 then imm.getLsbD k else if k < 21 then rt.getLsbD (k - 16) else if k < 26 then rs.getLsbD (k - 21)
      else op.getLsbD (k - 26) := by
  refine (BitVec.getLsbD_append (x := op ++ rs ++ rt) (y := imm)).trans ?_
  by_cases h : k < 16
  · simp only [h, if_true]
  simp only [h, if_false]
  refine (BitVec.getLsbD_append (x := op ++ rs) (y := rt)).trans ?_
  by_cases h1 : k < 21
  · simp only [h1, show k - 16 < 5 by omega, if_true]
  simp only [h1, show ¬ k - 16 < 5 by omega, if_false]
  refine (BitVec.getLsbD_append (x := op) (y := rs)).trans ?_
  rw [show k - 16 - 5 = k - 21 by omega]
  by_cases h2 : k < 26
  · simp only [h2, show k - 21 < 5 by omega, if_true]
  · simp only [h2, show ¬ k - 21 < 5 by omega, if_false, show k - 21 - 5 = k - 26 by omega]

theorem getLsbD_jType (op : BitVec 6) (target : Target26) (k : Nat) :
    (jType op target).getLsbD k = if k < 26 then target.getLsbD k else op.getLsbD (k - 26) :=
  BitVec.getLsbD_append (x := op) (y := target)

theorem getLsbD_cp0Type (rs rt rd : Reg) (sel : BitVec 3) (k : Nat) :
    (cp0Type rs rt rd sel).getLsbD k =
      if k < 3 then sel.getLsbD k else if k < 11 then false else if k < 16 then rd.getLsbD (k - 11)
      else if k < 21 then rt.getLsbD (k - 16) else if k < 26 then rs.getLsbD (k - 21)
      else (0x10#6).getLsbD (k - 26) := by
  refine (BitVec.getLsbD_append (x := 0x10#6 ++ rs ++ rt ++ rd ++ 0#8) (y := sel)).trans ?_
  by_cases h : k < 3
  · simp only [h, if_true]
  simp only [h, if_false]
  refine (BitVec.getLsbD_append (x := 0x10#6 ++ rs ++ rt ++ rd) (y := 0#8)).trans ?_
  by_cases h1 : k < 11
  · simp only [h1, show k - 3 < 8 by omega, if_true, BitVec.getLsbD_zero]
  simp only [h1, show ¬ k - 3 < 8 by omega, if_false]
  refine (BitVec.getLsbD_append (x := 0x10#6 ++ rs ++ rt) (y := rd)).trans ?_
  rw [show k - 3 - 8 = k - 11 by omega]
  by_cases h2 : k < 16
  · simp only [h2, show k - 11 < 5 by omega, if_true]
  simp only [h2, show ¬ k - 11 < 5 by omega, if_false]
  refine (BitVec.getLsbD_append (x := 0x10#6 ++ rs) (y := rt)).trans ?_
  rw [show k - 11 - 5 = k - 16 by omega]
  by_cases h3 : k < 21
  · simp only [h3, show k - 16 < 5 by omega, if_true]
  simp only [h3, show ¬ k - 16 < 5 by omega, if_false]
  refine (BitVec.getLsbD_append (x := 0x10#6) (y := rs)).trans ?_
  rw [show k - 16 - 5 = k - 21 by omega]
  by_cases h4 : k < 26
  · simp only [h4, show k - 21 < 5 by omega, if_true]
  · simp only [h4, show ¬ k - 21 < 5 by omega, if_false, show k - 21 - 5 = k - 26 by omega]

/-- A field of a word is a given vector if its bits are. -/
theorem extract_eq {w : Word} {lo n : Nat} {v : BitVec n} (h : ∀ k < n, w.getLsbD (lo + k) = v.getLsbD k) :
    w.extractLsb' lo n = v :=
  BitVec.eq_of_getLsbD_eq fun k hk => by simpa [hk] using h k hk

/-! R format. -/

section
variable (rs rt rd : Reg) (sh : Shamt) (fn : BitVec 6)

@[simp] theorem opcodeField_rType : opcodeField (rType rs rt rd sh fn) = 0x00#6 := extract_eq fun k hk => by
  rw [getLsbD_rType, if_neg (by omega), if_neg (by omega), if_neg (by omega), if_neg (by omega)]
  simp [BitVec.getLsbD_of_ge rs (26 + k - 21) (by omega)]

@[simp] theorem rsField_rType : rsField (rType rs rt rd sh fn) = rs := extract_eq fun k hk => by
  rw [getLsbD_rType, if_neg (by omega), if_neg (by omega), if_neg (by omega), if_neg (by omega),
    show 21 + k - 21 = k by omega]

@[simp] theorem rtField_rType : rtField (rType rs rt rd sh fn) = rt := extract_eq fun k hk => by
  rw [getLsbD_rType, if_neg (by omega), if_neg (by omega), if_neg (by omega), if_pos (by omega),
    show 16 + k - 16 = k by omega]

@[simp] theorem rdField_rType : rdField (rType rs rt rd sh fn) = rd := extract_eq fun k hk => by
  rw [getLsbD_rType, if_neg (by omega), if_neg (by omega), if_pos (by omega), show 11 + k - 11 = k by omega]

@[simp] theorem shamtField_rType : shamtField (rType rs rt rd sh fn) = sh := extract_eq fun k hk => by
  rw [getLsbD_rType, if_neg (by omega), if_pos (by omega), show 6 + k - 6 = k by omega]

@[simp] theorem funcField_rType : funcField (rType rs rt rd sh fn) = fn := extract_eq fun k hk => by
  rw [getLsbD_rType, if_pos (by omega), Nat.zero_add]

end

/-! I format. -/

section
variable (op : BitVec 6) (rs rt : Reg) (imm : Imm16)

@[simp] theorem opcodeField_iType : opcodeField (iType op rs rt imm) = op := extract_eq fun k hk => by
  rw [getLsbD_iType, if_neg (by omega), if_neg (by omega), if_neg (by omega), show 26 + k - 26 = k by omega]

@[simp] theorem rsField_iType : rsField (iType op rs rt imm) = rs := extract_eq fun k hk => by
  rw [getLsbD_iType, if_neg (by omega), if_neg (by omega), if_pos (by omega), show 21 + k - 21 = k by omega]

@[simp] theorem rtField_iType : rtField (iType op rs rt imm) = rt := extract_eq fun k hk => by
  rw [getLsbD_iType, if_neg (by omega), if_pos (by omega), show 16 + k - 16 = k by omega]

@[simp] theorem immField_iType : immField (iType op rs rt imm) = imm := extract_eq fun k hk => by
  rw [getLsbD_iType, if_pos (by omega), Nat.zero_add]

end

/-! J format. -/

@[simp] theorem opcodeField_jType (op : BitVec 6) (t : Target26) : opcodeField (jType op t) = op :=
  extract_eq fun k hk => by
    rw [getLsbD_jType, if_neg (by omega), show 26 + k - 26 = k by omega]

@[simp] theorem targetField_jType (op : BitVec 6) (t : Target26) : targetField (jType op t) = t :=
  extract_eq fun k hk => by
    rw [getLsbD_jType, if_pos (by omega), Nat.zero_add]

/-! The words of mfc0 and mtc0. -/

section
variable (rs rt rd : Reg) (sel : BitVec 3)

@[simp] theorem opcodeField_cp0Type : opcodeField (cp0Type rs rt rd sel) = 0x10#6 := extract_eq fun k hk => by
  rw [getLsbD_cp0Type, if_neg (by omega), if_neg (by omega), if_neg (by omega), if_neg (by omega),
    if_neg (by omega), show 26 + k - 26 = k by omega]

@[simp] theorem rsField_cp0Type : rsField (cp0Type rs rt rd sel) = rs := extract_eq fun k hk => by
  rw [getLsbD_cp0Type, if_neg (by omega), if_neg (by omega), if_neg (by omega), if_neg (by omega), if_pos (by omega),
    show 21 + k - 21 = k by omega]

@[simp] theorem rtField_cp0Type : rtField (cp0Type rs rt rd sel) = rt := extract_eq fun k hk => by
  rw [getLsbD_cp0Type, if_neg (by omega), if_neg (by omega), if_neg (by omega), if_pos (by omega),
    show 16 + k - 16 = k by omega]

@[simp] theorem rdField_cp0Type : rdField (cp0Type rs rt rd sel) = rd := extract_eq fun k hk => by
  rw [getLsbD_cp0Type, if_neg (by omega), if_neg (by omega), if_pos (by omega), show 11 + k - 11 = k by omega]

@[simp] theorem selField_cp0Type : selField (cp0Type rs rt rd sel) = sel := extract_eq fun k hk => by
  rw [getLsbD_cp0Type, if_pos (by omega), Nat.zero_add]

theorem bit25_cp0Type : (cp0Type rs rt rd sel).getLsbD 25 = rs.getLsbD 4 := by
  rw [getLsbD_cp0Type, if_neg (by omega), if_neg (by omega), if_neg (by omega), if_neg (by omega), if_pos (by omega)]

/-- Bits 10:0 of a word with selector 0 are zero. -/
theorem low11_cp0Type : (cp0Type rs rt rd 0#3).extractLsb' 0 11 = 0#11 := extract_eq fun k hk => by
  rw [getLsbD_cp0Type, Nat.zero_add]
  by_cases h : k < 3
  · simp [h]
  · simp [h, hk]

end

/-! The fixed bits of a word: what each mask of the opcode table leaves of each format. -/

theorem getLsbD_opMask : ∀ k < 32, (0xFC000000#32).getLsbD k = decide (26 ≤ k) := by decide
theorem getLsbD_funcMask : ∀ k < 32, (0xFC00003F#32).getLsbD k = (decide (26 ≤ k) || decide (k < 6)) := by decide
theorem getLsbD_regimmMask : ∀ k < 32, (0xFC1F0000#32).getLsbD k =
    (decide (26 ≤ k) || (decide (16 ≤ k) && decide (k < 21))) := by decide
theorem getLsbD_rsMask : ∀ k < 32, (0xFFE00000#32).getLsbD k = decide (21 ≤ k) := by decide

theorem rType_and_funcMask (rs rt rd : Reg) (sh : Shamt) (fn : BitVec 6) :
    rType rs rt rd sh fn &&& 0xFC00003F#32 = fn.setWidth 32 := by
  refine BitVec.eq_of_getLsbD_eq fun k hk => ?_
  rw [BitVec.getLsbD_and, getLsbD_rType, getLsbD_funcMask k hk, BitVec.getLsbD_setWidth]
  by_cases h : k < 6
  · simp [h, hk]
  · rw [BitVec.getLsbD_of_ge fn k (by omega)]
    by_cases h26 : 26 ≤ k
    · simp [h, show ¬ k < 11 by omega, show ¬ k < 16 by omega, show ¬ k < 21 by omega,
        BitVec.getLsbD_of_ge rs (k - 21) (by omega)]
    · simp [h, h26]

theorem iType_and_opMask (op : BitVec 6) (rs rt : Reg) (imm : Imm16) :
    iType op rs rt imm &&& 0xFC000000#32 = iType op 0#5 0#5 0#16 := by
  refine BitVec.eq_of_getLsbD_eq fun k hk => ?_
  rw [BitVec.getLsbD_and, getLsbD_iType, getLsbD_iType, getLsbD_opMask k hk]
  by_cases h : 26 ≤ k
  · simp [h, show ¬ k < 26 by omega, show ¬ k < 16 by omega, show ¬ k < 21 by omega]
  · simp [h, show k < 26 by omega]

theorem iType_and_regimmMask (op : BitVec 6) (rs rt : Reg) (imm : Imm16) :
    iType op rs rt imm &&& 0xFC1F0000#32 = iType op 0#5 rt 0#16 := by
  refine BitVec.eq_of_getLsbD_eq fun k hk => ?_
  rw [BitVec.getLsbD_and, getLsbD_iType, getLsbD_iType, getLsbD_regimmMask k hk]
  by_cases h16 : k < 16
  · simp [h16, show ¬ 26 ≤ k by omega, show ¬ 16 ≤ k by omega]
  by_cases h21 : k < 21
  · simp [h16, h21, show 16 ≤ k by omega]
  by_cases h26 : 26 ≤ k
  · simp [h16, h21, h26, show ¬ k < 26 by omega]
  · simp [h16, h21, h26, show k < 26 by omega]

theorem jType_and_opMask (op : BitVec 6) (t : Target26) :
    jType op t &&& 0xFC000000#32 = iType op 0#5 0#5 0#16 := by
  refine BitVec.eq_of_getLsbD_eq fun k hk => ?_
  rw [BitVec.getLsbD_and, getLsbD_jType, getLsbD_iType, getLsbD_opMask k hk]
  by_cases h : 26 ≤ k
  · simp [h, show ¬ k < 26 by omega, show ¬ k < 16 by omega, show ¬ k < 21 by omega]
  · simp [h, show k < 26 by omega]

theorem cp0Type_and_rsMask (rs rt rd : Reg) (sel : BitVec 3) :
    cp0Type rs rt rd sel &&& 0xFFE00000#32 = cp0Type rs 0#5 0#5 0#3 := by
  refine BitVec.eq_of_getLsbD_eq fun k hk => ?_
  rw [BitVec.getLsbD_and, getLsbD_cp0Type, getLsbD_cp0Type, getLsbD_rsMask k hk]
  by_cases h : 21 ≤ k
  · simp [h, show ¬ k < 3 by omega, show ¬ k < 11 by omega, show ¬ k < 16 by omega, show ¬ k < 21 by omega]
  · simp [h, show k < 21 by omega]

end Sys2Proof
end

