-- ==== Sys2Proof/Laws/PerInstr.lean ====
section
/-! SUPPORT. One lemma per instruction: its word is a word of its own row of the opcode table (30_encoding.md R83). -/

namespace Sys2Proof.Laws.EncodedRow

/-- The word of the instruction, whatever its operands, matches the row of the opcode table with its mnemonic. -/
def Statement (i : Instr) : Prop :=
  ∃ r ∈ opcodeTable, r.mnemonic = i.mnemonic ∧ r.matches (encode i) = true

theorem lw (rt : Reg) (off : Imm16) (base : Reg) : Statement (.lw rt off base) :=
  ⟨⟨"lw", 0xFC000000#32, 0x8C000000#32, 0xFC000000#32, false⟩, by decide, rfl,
    by simp only [OpcodeRow.matches, encode, iType_and_opMask]; decide⟩

theorem lb (rt : Reg) (off : Imm16) (base : Reg) : Statement (.lb rt off base) :=
  ⟨⟨"lb", 0xFC000000#32, 0x80000000#32, 0xFC000000#32, false⟩, by decide, rfl,
    by simp only [OpcodeRow.matches, encode, iType_and_opMask]; decide⟩

theorem lbu (rt : Reg) (off : Imm16) (base : Reg) : Statement (.lbu rt off base) :=
  ⟨⟨"lbu", 0xFC000000#32, 0x90000000#32, 0xFC000000#32, false⟩, by decide, rfl,
    by simp only [OpcodeRow.matches, encode, iType_and_opMask]; decide⟩

theorem lh (rt : Reg) (off : Imm16) (base : Reg) : Statement (.lh rt off base) :=
  ⟨⟨"lh", 0xFC000000#32, 0x84000000#32, 0xFC000000#32, false⟩, by decide, rfl,
    by simp only [OpcodeRow.matches, encode, iType_and_opMask]; decide⟩

theorem lhu (rt : Reg) (off : Imm16) (base : Reg) : Statement (.lhu rt off base) :=
  ⟨⟨"lhu", 0xFC000000#32, 0x94000000#32, 0xFC000000#32, false⟩, by decide, rfl,
    by simp only [OpcodeRow.matches, encode, iType_and_opMask]; decide⟩

theorem sw (rt : Reg) (off : Imm16) (base : Reg) : Statement (.sw rt off base) :=
  ⟨⟨"sw", 0xFC000000#32, 0xAC000000#32, 0xFC000000#32, false⟩, by decide, rfl,
    by simp only [OpcodeRow.matches, encode, iType_and_opMask]; decide⟩

theorem sb (rt : Reg) (off : Imm16) (base : Reg) : Statement (.sb rt off base) :=
  ⟨⟨"sb", 0xFC000000#32, 0xA0000000#32, 0xFC000000#32, false⟩, by decide, rfl,
    by simp only [OpcodeRow.matches, encode, iType_and_opMask]; decide⟩

theorem sh (rt : Reg) (off : Imm16) (base : Reg) : Statement (.sh rt off base) :=
  ⟨⟨"sh", 0xFC000000#32, 0xA4000000#32, 0xFC000000#32, false⟩, by decide, rfl,
    by simp only [OpcodeRow.matches, encode, iType_and_opMask]; decide⟩

theorem add (rd rs rt : Reg) : Statement (.add rd rs rt) :=
  ⟨⟨"add", 0xFC00003F#32, 0x00000020#32, 0xFC0007FF#32, false⟩, by decide, rfl,
    by simp only [OpcodeRow.matches, encode, rType_and_funcMask]; decide⟩

theorem addu (rd rs rt : Reg) : Statement (.addu rd rs rt) :=
  ⟨⟨"addu", 0xFC00003F#32, 0x00000021#32, 0xFC0007FF#32, false⟩, by decide, rfl,
    by simp only [OpcodeRow.matches, encode, rType_and_funcMask]; decide⟩

theorem sub (rd rs rt : Reg) : Statement (.sub rd rs rt) :=
  ⟨⟨"sub", 0xFC00003F#32, 0x00000022#32, 0xFC0007FF#32, false⟩, by decide, rfl,
    by simp only [OpcodeRow.matches, encode, rType_and_funcMask]; decide⟩

theorem subu (rd rs rt : Reg) : Statement (.subu rd rs rt) :=
  ⟨⟨"subu", 0xFC00003F#32, 0x00000023#32, 0xFC0007FF#32, false⟩, by decide, rfl,
    by simp only [OpcodeRow.matches, encode, rType_and_funcMask]; decide⟩

theorem slt (rd rs rt : Reg) : Statement (.slt rd rs rt) :=
  ⟨⟨"slt", 0xFC00003F#32, 0x0000002A#32, 0xFC0007FF#32, false⟩, by decide, rfl,
    by simp only [OpcodeRow.matches, encode, rType_and_funcMask]; decide⟩

theorem sltu (rd rs rt : Reg) : Statement (.sltu rd rs rt) :=
  ⟨⟨"sltu", 0xFC00003F#32, 0x0000002B#32, 0xFC0007FF#32, false⟩, by decide, rfl,
    by simp only [OpcodeRow.matches, encode, rType_and_funcMask]; decide⟩

theorem and (rd rs rt : Reg) : Statement (.and rd rs rt) :=
  ⟨⟨"and", 0xFC00003F#32, 0x00000024#32, 0xFC0007FF#32, false⟩, by decide, rfl,
    by simp only [OpcodeRow.matches, encode, rType_and_funcMask]; decide⟩

theorem or (rd rs rt : Reg) : Statement (.or rd rs rt) :=
  ⟨⟨"or", 0xFC00003F#32, 0x00000025#32, 0xFC0007FF#32, false⟩, by decide, rfl,
    by simp only [OpcodeRow.matches, encode, rType_and_funcMask]; decide⟩

theorem xor (rd rs rt : Reg) : Statement (.xor rd rs rt) :=
  ⟨⟨"xor", 0xFC00003F#32, 0x00000026#32, 0xFC0007FF#32, false⟩, by decide, rfl,
    by simp only [OpcodeRow.matches, encode, rType_and_funcMask]; decide⟩

theorem nor (rd rs rt : Reg) : Statement (.nor rd rs rt) :=
  ⟨⟨"nor", 0xFC00003F#32, 0x00000027#32, 0xFC0007FF#32, false⟩, by decide, rfl,
    by simp only [OpcodeRow.matches, encode, rType_and_funcMask]; decide⟩

theorem sll (rd rt : Reg) (sa : Shamt) : Statement (.sll rd rt sa) :=
  ⟨⟨"sll", 0xFC00003F#32, 0x00000000#32, 0xFFE0003F#32, false⟩, by decide, rfl,
    by simp only [OpcodeRow.matches, encode, rType_and_funcMask]; decide⟩

theorem srl (rd rt : Reg) (sa : Shamt) : Statement (.srl rd rt sa) :=
  ⟨⟨"srl", 0xFC00003F#32, 0x00000002#32, 0xFFE0003F#32, false⟩, by decide, rfl,
    by simp only [OpcodeRow.matches, encode, rType_and_funcMask]; decide⟩

theorem sra (rd rt : Reg) (sa : Shamt) : Statement (.sra rd rt sa) :=
  ⟨⟨"sra", 0xFC00003F#32, 0x00000003#32, 0xFFE0003F#32, false⟩, by decide, rfl,
    by simp only [OpcodeRow.matches, encode, rType_and_funcMask]; decide⟩

theorem mult (rs rt : Reg) : Statement (.mult rs rt) :=
  ⟨⟨"mult", 0xFC00003F#32, 0x00000018#32, 0xFC00FFFF#32, false⟩, by decide, rfl,
    by simp only [OpcodeRow.matches, encode, rType_and_funcMask]; decide⟩

theorem multu (rs rt : Reg) : Statement (.multu rs rt) :=
  ⟨⟨"multu", 0xFC00003F#32, 0x00000019#32, 0xFC00FFFF#32, false⟩, by decide, rfl,
    by simp only [OpcodeRow.matches, encode, rType_and_funcMask]; decide⟩

theorem div (rs rt : Reg) : Statement (.div rs rt) :=
  ⟨⟨"div", 0xFC00003F#32, 0x0000001A#32, 0xFC00FFFF#32, false⟩, by decide, rfl,
    by simp only [OpcodeRow.matches, encode, rType_and_funcMask]; decide⟩

theorem divu (rs rt : Reg) : Statement (.divu rs rt) :=
  ⟨⟨"divu", 0xFC00003F#32, 0x0000001B#32, 0xFC00FFFF#32, false⟩, by decide, rfl,
    by simp only [OpcodeRow.matches, encode, rType_and_funcMask]; decide⟩

theorem addi (rt rs : Reg) (imm : Imm16) : Statement (.addi rt rs imm) :=
  ⟨⟨"addi", 0xFC000000#32, 0x20000000#32, 0xFC000000#32, false⟩, by decide, rfl,
    by simp only [OpcodeRow.matches, encode, iType_and_opMask]; decide⟩

theorem addiu (rt rs : Reg) (imm : Imm16) : Statement (.addiu rt rs imm) :=
  ⟨⟨"addiu", 0xFC000000#32, 0x24000000#32, 0xFC000000#32, false⟩, by decide, rfl,
    by simp only [OpcodeRow.matches, encode, iType_and_opMask]; decide⟩

theorem andi (rt rs : Reg) (imm : Imm16) : Statement (.andi rt rs imm) :=
  ⟨⟨"andi", 0xFC000000#32, 0x30000000#32, 0xFC000000#32, false⟩, by decide, rfl,
    by simp only [OpcodeRow.matches, encode, iType_and_opMask]; decide⟩

theorem ori (rt rs : Reg) (imm : Imm16) : Statement (.ori rt rs imm) :=
  ⟨⟨"ori", 0xFC000000#32, 0x34000000#32, 0xFC000000#32, false⟩, by decide, rfl,
    by simp only [OpcodeRow.matches, encode, iType_and_opMask]; decide⟩

theorem xori (rt rs : Reg) (imm : Imm16) : Statement (.xori rt rs imm) :=
  ⟨⟨"xori", 0xFC000000#32, 0x38000000#32, 0xFC000000#32, false⟩, by decide, rfl,
    by simp only [OpcodeRow.matches, encode, iType_and_opMask]; decide⟩

theorem lui (rt : Reg) (imm : Imm16) : Statement (.lui rt imm) :=
  ⟨⟨"lui", 0xFC000000#32, 0x3C000000#32, 0xFFE00000#32, false⟩, by decide, rfl,
    by simp only [OpcodeRow.matches, encode, iType_and_opMask]; decide⟩

theorem slti (rt rs : Reg) (imm : Imm16) : Statement (.slti rt rs imm) :=
  ⟨⟨"slti", 0xFC000000#32, 0x28000000#32, 0xFC000000#32, false⟩, by decide, rfl,
    by simp only [OpcodeRow.matches, encode, iType_and_opMask]; decide⟩

theorem sltiu (rt rs : Reg) (imm : Imm16) : Statement (.sltiu rt rs imm) :=
  ⟨⟨"sltiu", 0xFC000000#32, 0x2C000000#32, 0xFC000000#32, false⟩, by decide, rfl,
    by simp only [OpcodeRow.matches, encode, iType_and_opMask]; decide⟩

theorem beq (rs rt : Reg) (off : Imm16) : Statement (.beq rs rt off) :=
  ⟨⟨"beq", 0xFC000000#32, 0x10000000#32, 0xFC000000#32, false⟩, by decide, rfl,
    by simp only [OpcodeRow.matches, encode, iType_and_opMask]; decide⟩

theorem bne (rs rt : Reg) (off : Imm16) : Statement (.bne rs rt off) :=
  ⟨⟨"bne", 0xFC000000#32, 0x14000000#32, 0xFC000000#32, false⟩, by decide, rfl,
    by simp only [OpcodeRow.matches, encode, iType_and_opMask]; decide⟩

theorem blez (rs : Reg) (off : Imm16) : Statement (.blez rs off) :=
  ⟨⟨"blez", 0xFC000000#32, 0x18000000#32, 0xFC1F0000#32, false⟩, by decide, rfl,
    by simp only [OpcodeRow.matches, encode, iType_and_opMask]; decide⟩

theorem bgtz (rs : Reg) (off : Imm16) : Statement (.bgtz rs off) :=
  ⟨⟨"bgtz", 0xFC000000#32, 0x1C000000#32, 0xFC1F0000#32, false⟩, by decide, rfl,
    by simp only [OpcodeRow.matches, encode, iType_and_opMask]; decide⟩

theorem bltz (rs : Reg) (off : Imm16) : Statement (.bltz rs off) :=
  ⟨⟨"bltz", 0xFC1F0000#32, 0x04000000#32, 0xFC1F0000#32, false⟩, by decide, rfl,
    by simp only [OpcodeRow.matches, encode, iType_and_regimmMask]; decide⟩

theorem bgez (rs : Reg) (off : Imm16) : Statement (.bgez rs off) :=
  ⟨⟨"bgez", 0xFC1F0000#32, 0x04010000#32, 0xFC1F0000#32, false⟩, by decide, rfl,
    by simp only [OpcodeRow.matches, encode, iType_and_regimmMask]; decide⟩

theorem j (target : Target26) : Statement (.j target) :=
  ⟨⟨"j", 0xFC000000#32, 0x08000000#32, 0xFC000000#32, false⟩, by decide, rfl,
    by simp only [OpcodeRow.matches, encode, jType_and_opMask]; decide⟩

theorem jal (target : Target26) : Statement (.jal target) :=
  ⟨⟨"jal", 0xFC000000#32, 0x0C000000#32, 0xFC000000#32, false⟩, by decide, rfl,
    by simp only [OpcodeRow.matches, encode, jType_and_opMask]; decide⟩

theorem jalr (rd rs : Reg) : Statement (.jalr rd rs) :=
  ⟨⟨"jalr", 0xFC00003F#32, 0x00000009#32, 0xFC1F07FF#32, false⟩, by decide, rfl,
    by simp only [OpcodeRow.matches, encode, rType_and_funcMask]; decide⟩

theorem jr (rs : Reg) : Statement (.jr rs) :=
  ⟨⟨"jr", 0xFC00003F#32, 0x00000008#32, 0xFC1FFFFF#32, false⟩, by decide, rfl,
    by simp only [OpcodeRow.matches, encode, rType_and_funcMask]; decide⟩

theorem mfhi (rd : Reg) : Statement (.mfhi rd) :=
  ⟨⟨"mfhi", 0xFC00003F#32, 0x00000010#32, 0xFFFF07FF#32, false⟩, by decide, rfl,
    by simp only [OpcodeRow.matches, encode, rType_and_funcMask]; decide⟩

theorem mflo (rd : Reg) : Statement (.mflo rd) :=
  ⟨⟨"mflo", 0xFC00003F#32, 0x00000012#32, 0xFFFF07FF#32, false⟩, by decide, rfl,
    by simp only [OpcodeRow.matches, encode, rType_and_funcMask]; decide⟩

theorem mthi (rs : Reg) : Statement (.mthi rs) :=
  ⟨⟨"mthi", 0xFC00003F#32, 0x00000011#32, 0xFC1FFFFF#32, false⟩, by decide, rfl,
    by simp only [OpcodeRow.matches, encode, rType_and_funcMask]; decide⟩

theorem mtlo (rs : Reg) : Statement (.mtlo rs) :=
  ⟨⟨"mtlo", 0xFC00003F#32, 0x00000013#32, 0xFC1FFFFF#32, false⟩, by decide, rfl,
    by simp only [OpcodeRow.matches, encode, rType_and_funcMask]; decide⟩

theorem eret : Statement .eret :=
  ⟨⟨"eret", 0xFE00003F#32, 0x42000018#32, 0xFFFFFFFF#32, false⟩, by decide, rfl,
    by decide⟩

theorem mfc0 (rt rd : Reg) (sel : BitVec 3) : Statement (.mfc0 rt rd sel) :=
  ⟨⟨"mfc0", 0xFFE00000#32, 0x40000000#32, 0xFFE007FF#32, false⟩, by decide, rfl,
    by simp only [OpcodeRow.matches, encode, cp0Type_and_rsMask]; decide⟩

theorem mtc0 (rt rd : Reg) (sel : BitVec 3) : Statement (.mtc0 rt rd sel) :=
  ⟨⟨"mtc0", 0xFFE00000#32, 0x40800000#32, 0xFFE007FF#32, false⟩, by decide, rfl,
    by simp only [OpcodeRow.matches, encode, cp0Type_and_rsMask]; decide⟩

theorem brk : Statement .brk :=
  ⟨⟨"break", 0xFC00003F#32, 0x0000000D#32, 0xFFFFFFFF#32, false⟩, by decide, rfl,
    by simp only [OpcodeRow.matches, encode, rType_and_funcMask]; decide⟩

theorem syscall : Statement .syscall :=
  ⟨⟨"syscall", 0xFC00003F#32, 0x0000000C#32, 0xFFFFFFFF#32, false⟩, by decide, rfl,
    by simp only [OpcodeRow.matches, encode, rType_and_funcMask]; decide⟩

theorem sllv (rd rt rs : Reg) : Statement (.sllv rd rt rs) :=
  ⟨⟨"sllv", 0xFC00003F#32, 0x00000004#32, 0xFC0007FF#32, true⟩, by decide, rfl,
    by simp only [OpcodeRow.matches, encode, rType_and_funcMask]; decide⟩

theorem srlv (rd rt rs : Reg) : Statement (.srlv rd rt rs) :=
  ⟨⟨"srlv", 0xFC00003F#32, 0x00000006#32, 0xFC0007FF#32, true⟩, by decide, rfl,
    by simp only [OpcodeRow.matches, encode, rType_and_funcMask]; decide⟩

theorem srav (rd rt rs : Reg) : Statement (.srav rd rt rs) :=
  ⟨⟨"srav", 0xFC00003F#32, 0x00000007#32, 0xFC0007FF#32, true⟩, by decide, rfl,
    by simp only [OpcodeRow.matches, encode, rType_and_funcMask]; decide⟩

theorem bgezal (rs : Reg) (off : Imm16) : Statement (.bgezal rs off) :=
  ⟨⟨"bgezal", 0xFC1F0000#32, 0x04110000#32, 0xFC1F0000#32, true⟩, by decide, rfl,
    by simp only [OpcodeRow.matches, encode, iType_and_regimmMask]; decide⟩

theorem bltzal (rs : Reg) (off : Imm16) : Statement (.bltzal rs off) :=
  ⟨⟨"bltzal", 0xFC1F0000#32, 0x04100000#32, 0xFC1F0000#32, true⟩, by decide, rfl,
    by simp only [OpcodeRow.matches, encode, iType_and_regimmMask]; decide⟩

end Sys2Proof.Laws.EncodedRow
end

