-- ==== Sys2Proof/Laws/Results.lean ====
section
/-! SUPPORT. What each shared completion of the meanings can do, said once, in the frames of Safety.lean. -/

namespace Sys2Proof.Machine

/-- Writing a register and advancing changes that register and pc only. -/
theorem finishGpr_frame (s : State) (rd : Reg) (v : Word) :
    ∃ t, finishGpr s rd v = .next t ∧ OnlyGprAndPc s t rd v (s.pc + 4#32) :=
  ⟨_, rfl, ⟨fun r => by simp [State.readGpr_writeGpr], by simp, ⟨by simp, by simp⟩, ⟨by simp, by simp, by simp⟩,
    ⟨by simp, by simp⟩, ⟨by simp, by simp⟩⟩⟩

theorem finishGpr_next {s t : State} {rd : Reg} {v : Word} (h : finishGpr s rd v = .next t) :
    t = (s.writeGpr rd v).advance := by
  injection h with h; exact h.symm

/-- A meaning that may overflow either writes its result or takes the Overflow exception at its own pc. -/
theorem finishOrOverflow_next {s t : State} {rd : Reg} {r : BitVec 33} (h : finishOrOverflow s rd r = .next t) :
    (overflows r = true ∧ t = s.takeException .overflow false s.pc) ∨
      (overflows r = false ∧ t = (s.writeGpr rd (r.setWidth 32)).advance) := by
  unfold finishOrOverflow at h
  split at h
  · next ho => injection h with h; exact .inl ⟨ho, h.symm⟩
  · next ho => exact .inr ⟨by simpa using ho, finishGpr_next h⟩

theorem finishHiLo_next {s t : State} {hi lo : Word} (h : finishHiLo s hi lo = .next t) :
    t = ((s.setHi hi).setLo lo).advance := by
  injection h with h; exact h.symm

theorem finishFreeHiLo_next {s t : State} (h : finishFreeHiLo s = .next t) :
    t = (((s.setLo (Config.freeWord s.draws)).setHi (Config.freeWord (s.draws + 1))).advance).draw 2 := by
  injection h with h; exact h.symm

theorem finishLoad_next {s t : State} {w : Width} {ext : Word → Word} {rt base : Reg} {off : Imm16}
    (h : finishLoad s w ext rt off base = .next t) :
    aligned w (s.effAddr base off) = true ∧ AllPlain s .load (s.effAddr base off) w.bytes ∧
      t = (s.writeGpr rt (ext (wordOfBytes s.cfg.endian
        (Memory.readBytes s.mem (s.effAddr base off) w.bytes)))).advance := by
  obtain ⟨v, h1, h2⟩ := andThen_next.1 h
  obtain ⟨ha, hp, rfl⟩ := memRead_next.1 h1
  exact ⟨ha, hp, finishGpr_next h2⟩

theorem finishStore_next {s t : State} {w : Width} {rt base : Reg} {off : Imm16}
    (h : finishStore s w rt off base = .next t) :
    aligned w (s.effAddr base off) = true ∧ AllPlain s .store (s.effAddr base off) w.bytes ∧
      t = (s.storeBytes w (s.effAddr base off) (s.readGpr rt)).advance := by
  obtain ⟨u, h1, h2⟩ := andThen_next.1 h
  obtain ⟨ha, hp, rfl⟩ := memWrite_next.1 h1
  injection h2 with h2
  exact ⟨ha, hp, h2.symm⟩

/-- A store at an aligned address changes its own bytes, notes their addresses, and nothing else. -/
theorem storeBytes_frame {s : State} {w : Width} {ea v : Word} (hw : Memory.wf s.mem = true)
    (ha : aligned w ea = true) : OnlyStored s (s.storeBytes w ea v).advance ea w.bytes where
  gprs := fun r => by simp
  pc := by simp
  hilo := ⟨by simp, by simp⟩
  cp0 := ⟨by simp, by simp, by simp⟩
  outside := fun a h =>
    Memory.read_writeBytes_outside hw (by simpa using aligned_no_wrap ha) (by simpa using h)
  noted := fun a => by
    show a ∈ noteAllStored s.stored (accessAddrs ea w.bytes) ↔ _
    rw [mem_noteAllStored, mem_accessAddrs (aligned_no_wrap ha)]
    exact or_comm
  inputs := ⟨by simp, by simp⟩

/-- The bytes a store at an aligned address leaves in memory. -/
theorem storeBytes_inside {s : State} {w : Width} {ea v : Word} (hw : Memory.wf s.mem = true)
    (ha : aligned w ea = true) {k : Nat} (hk : k < (bytesOfWord s.cfg.endian w.bytes v).length) :
    Memory.read (s.storeBytes w ea v).mem (ea.toNat + k) = (bytesOfWord s.cfg.endian w.bytes v)[k] :=
  Memory.read_writeBytes_inside hw (by simpa using aligned_no_wrap ha) hk

/-- A store keeps the canonical forms. -/
theorem storeBytes_wf {s : State} (w : Width) (ea v : Word) (hw : Memory.wf s.mem = true)
    (hs : storedWf s.stored = true) :
    Memory.wf (s.storeBytes w ea v).mem = true ∧ storedWf (s.storeBytes w ea v).stored = true :=
  ⟨Memory.wf_writeBytes hw _ _, storedWf_noteAllStored hs (accessAddrs_lt _ _)⟩

/-- The entry procedure in the frame of 60_exceptions.md R262. -/
theorem takeException_entry (s : State) (e : Exc) (br : Bool) (epc : Word) :
    ExceptionEntry s (s.takeException e br epc) (excCode s.cfg e) br epc where
  epc := by simp
  exc := by simp
  br := by simp
  ie := by simp
  pc := by simp
  frame :=
    { gprs := fun r => by simp
      hilo := ⟨by simp, by simp⟩
      memory := ⟨fun a => by simp, by simp⟩
      inputs := ⟨by simp, by simp⟩
      im := by simp
      ip := by simp
      statusReserved := fun k hk => by
        simp only [getLsbD_statusMask, Bool.or_eq_false_iff, decide_eq_false_iff_not] at hk
        rw [State.takeException_status_bit, if_neg hk.1]
      causeReserved := fun k hk => by
        simp only [getLsbD_causeMask, Bool.or_eq_false_iff, Bool.and_eq_false_iff, decide_eq_false_iff_not] at hk
        rw [State.takeException_cause_bit, if_neg hk.1.1, if_neg (by omega)] }

/-- The return of eret changes only pc, IE, BR and EXC (47_cp0_privileged.md R221). -/
theorem returnFromException_frame (s : State) : OnlyExceptionState s s.returnFromException where
  gprs := fun r => by simp
  hilo := ⟨by simp, by simp⟩
  memory := ⟨fun a => by simp, by simp⟩
  inputs := ⟨by simp, by simp⟩
  im := by simp
  ip := by simp
  statusReserved := fun k hk => by
    simp only [getLsbD_statusMask, Bool.or_eq_false_iff, decide_eq_false_iff_not] at hk
    rw [State.returnFromException_status_bit, if_neg hk.1]
  causeReserved := fun k hk => State.returnFromException_cause_bit s k hk

end Sys2Proof.Machine
end

