-- ==== Sys2Proof/Laws/Step.lean ====
section
/-! SUPPORT. What a step can do, said once. -/

namespace Sys2Proof.Machine

/-- The interrupt condition of 60_exceptions.md R257, in the fields. -/
theorem interruptPending_iff (s : State) : s.interruptPending = true ↔ s.ie = true ∧ s.im &&& s.ip ≠ 0#20 := by
  simp [State.interruptPending]

/-- The timer signals with `code` exactly if the platform has a timer of that code and its next signal is due
(60_exceptions.md R272). -/
theorem timerSignal_iff (s : State) (code : BitVec 5) :
    s.timerSignal = some code ↔ s.cfg.timer = some code ∧ s.ticks.head? = some true := by
  unfold State.timerSignal
  split <;> simp_all

/-- Latching requests clears no pending bit. -/
theorem latchIrq_keeps_pending {s : State} {k : Nat} (h : s.ip.getLsbD k = true) :
    s.latchIrq.ip.getLsbD k = true := by
  unfold State.latchIrq
  split
  · exact h
  · show (State.raiseLines _ _).ip.getLsbD k = true
    simp [h]

/-- Latching requests changes no bit of Cause outside 28:9. -/
theorem latchIrq_cause_bit {s : State} {k : Nat} (h : ¬(9 ≤ k ∧ k < 29)) :
    s.latchIrq.cause.getLsbD k = s.cause.getLsbD k := by
  unfold State.latchIrq
  split
  · rfl
  · next l _ _ =>
    show (s.raiseLines l).cause.getLsbD k = _
    rw [State.raiseLines_cause_bit]
    by_cases h9 : 9 ≤ k
    · simp [BitVec.getLsbD_of_ge l (k - 9) (by omega)]
    · simp [h9]

/-- Taking an interrupt or the timer's exception is the entry of 60_exceptions.md R262 with EPC = pc. -/
theorem takeBeforeInstruction_entry (s : State) (e : Exc) :
    ExceptionEntry s (s.takeBeforeInstruction e) (excCode s.cfg e) s.victimIsBranch s.pc := by
  obtain ⟨h1, h2, h3, h4, h5, h6⟩ := takeException_entry s e s.victimIsBranch s.pc
  exact ⟨h1, h2, h3, h4, h5, ⟨h6.gprs, h6.hilo, h6.memory, h6.inputs, h6.im, h6.ip, h6.statusReserved, h6.causeReserved⟩⟩

/-- Where the fetch is not refused, the victim counts as a branch exactly if it is fetched and transfers control
(60_exceptions.md R263). -/
theorem victimIsBranch_iff {s : State} (h : ∀ f, s.fetchInstr ≠ .refused f) :
    s.victimIsBranch = true ↔ ∃ i, s.fetchInstr = .next i ∧ Instr.transfersControl i = true := by
  unfold State.victimIsBranch
  cases hf : s.fetchInstr with
  | next i => simp
  | fault e => simp
  | refused e => exact absurd hf (h e)

/-- An enabled pending interrupt is taken before all else (60_exceptions.md R257, R259). -/
theorem step_interrupt {s : State} (h : s.latchIrq.interruptPending = true) :
    step s = .next (s.latchIrq.takeBeforeInstruction .interrupt) := by
  simp [step, h]

/-- With no interrupt and no timer signal to take, a step is the fetch and then the instruction. -/
theorem step_execute {s : State} (h : s.latchIrq.interruptPending = false) (ht : s.timerSignal = none) :
    step s = andThen s.latchIrq.fetchInstr fun i => exec i s.latchIrq := by
  simp [step, h, ht]

/-- With no interrupt to take, a stop of the fetch is the step's, whatever a timer does (60_exceptions.md R259). -/
theorem step_fetch_fault {s : State} {f : Fault} (h : s.latchIrq.interruptPending = false)
    (hf : s.latchIrq.fetchInstr = .fault f) : step s = .fault f := by
  simp [step, h, hf, andThen]

/-- The same for a refused fetch. -/
theorem step_fetch_refused {s : State} {f : Refusal} (h : s.latchIrq.interruptPending = false)
    (hf : s.latchIrq.fetchInstr = .refused f) : step s = .refused f := by
  simp [step, h, hf, andThen]

/-- A step takes an interrupt or the timer's exception, or executes an instruction in the state with the requests
latched. -/
theorem step_next {s t : State} : step s = .next t ↔
    (∃ e, StepTakes s e ∧ t = s.latchIrq.takeBeforeInstruction e) ∨
      ∃ i, StepExecutes s i ∧ exec i s.latchIrq = .next t := by
  unfold step StepTakes StepExecutes
  cases h : s.latchIrq.interruptPending with
  | true => simp [eq_comm]
  | false => cases ht : s.timerSignal <;> simp [andThen_next, eq_comm (a := t)]

end Sys2Proof.Machine
end

