-- ==== Sys2Proof/Laws/Run.lean ====
section
/-! SUPPORT. When a run ends, said once. -/

namespace Sys2Proof.Machine

/-- The words that count as a jump to itself (92_eei_decisions.md D35). -/
theorem atSelfLoop_iff (s : State) : s.atSelfLoop = true ↔
    s.fetchInstr = .next (.beq 0#5 0#5 0xFFFF#16) ∨
      ∃ target, s.fetchInstr = .next (.j target) ∧ s.jumpTarget target = s.pc := by
  unfold State.atSelfLoop
  split <;> simp_all

/-- What it takes for HALT to end a run. -/
theorem runEnded_iff (s : State) (k : Nat) : s.runEnded k = true ↔
    (∃ n, s.cfg.halt = some (.steps n) ∧ n ≤ k) ∨ s.cfg.halt = some (.atPc s.pc) ∨
      s.cfg.halt = some .selfLoop ∧ s.atSelfLoop = true := by
  unfold State.runEnded
  cases h : s.cfg.halt with
  | none => simp
  | some e => cases e <;> simp [eq_comm (a := s.pc)]

/-- A run ends at once where HALT says so. -/
theorem runToEnd_ended {s : State} {k : Nat} (h : s.runEnded k = true) (fuel : Nat) :
    runToEnd fuel k s = .next (some s) := by
  cases fuel <;> simp [runToEnd, h]

/-- Elsewhere it makes one step, if there is fuel for it. -/
theorem runToEnd_step {s : State} {k : Nat} (h : s.runEnded k = false) (fuel : Nat) :
    runToEnd 0 k s = .next none ∧ runToEnd (fuel + 1) k s = andThen (step s) (runToEnd fuel (k + 1)) := by
  simp [runToEnd, h]

end Sys2Proof.Machine
end

