-- ==== Sys2Proof/Tests/Slice0.lean ====
section
/-! SUPPORT. The model's own tests: ill-formed terms, words written out from the spec's encodings, one step at a time from
the derived vectors of 95_test_vectors.md, and a witness for each statement that has hypotheses. -/

namespace Sys2Proof.Tests

open Sys2Proof.Machine

/-! Helpers. -/

/-- The default parameters with HIST_INSTRS true. -/
def histConfig : Config := { defaultConfig with histInstrs := true }

/-- The default parameters with STRICT_DECODE false. -/
def looseConfig : Config := { defaultConfig with strictDecode := false }

/-- Every word of the list decodes to the instruction beside it, which encodes to the word. -/
def decodesAll (l : List (Word × Instr)) : Bool :=
  l.all fun p =>
    (match decodeWord histConfig p.1 with
    | .ok i => decide (i = p.2)
    | .error _ => false) && decide (encode p.2 = p.1)

/-- Why a word is no instruction, if it is none. -/
def rejected (c : Config) (w : Word) : Option Reject :=
  match decodeWord c w with
  | .ok _ => none
  | .error e => some e

/-- A machine at reset but for pc, HI, LO and some general registers, with one instruction word at pc. -/
def runAt (pc w : Word) (xs : List (Reg × Word)) : State :=
  (xs.foldl (fun s p => s.writeGpr p.1 p.2)
    (((State.reset.setPc pc).setHi 0x11111111#32).setLo 0x22222222#32)).placeWord w

/-- Bytes in memory that count as no store. -/
def withBytes (s : State) (a : Word) (bs : List Byte) : State :=
  s.setMem (Memory.writeBytes s.mem a bs) s.stored

/-- The eight bytes of the vectors of 95_test_vectors.md section 2.1. -/
def withData (s : State) : State :=
  withBytes s 0x1000#32 [0x80#8, 0x7F#8, 0xFF#8, 0x01#8, 0x34#8, 0x92#8, 0x00#8, 0x00#8]

/-- What is seen after one step, if the step gives a next state. -/
def after {α : Type} (s : State) (f : State → α) : Option α :=
  match step s with
  | .next t => some (f t)
  | .fault _ => none
  | .refused _ => none

/-- The fault of one step, if it is one. -/
def stops (s : State) : Option Fault :=
  match step s with
  | .next _ => none
  | .fault e => some e
  | .refused _ => none

/-! WellFormed: an ill-formed term for each check, and the parameter that admits it. -/

theorem test_histOk_refuses :
    (Instr.sllv 8#5 9#5 10#5).histOk defaultConfig = false ∧ (Instr.bltzal 8#5 4#16).wellFormed defaultConfig = false ∧
    (Instr.sllv 8#5 9#5 10#5).wellFormed histConfig = true := by decide

theorem test_selOk_refuses :
    (Instr.mfc0 8#5 13#5 1#3).selOk defaultConfig = false ∧ (Instr.mtc0 8#5 13#5 7#3).wellFormed defaultConfig = false ∧
    (Instr.mfc0 8#5 13#5 1#3).wellFormed looseConfig = true := by decide

/-! Decoding and encoding: every constructor, its word written out bit by bit. -/

/-- Written out from 30_encoding.md R72, R80. -/
theorem test_decode_loads_and_stores : decodesAll
    [(0b100011_01001_01000_0000000000000100#32, .lw 8#5 0x0004#16 9#5),
     (0b100000_01001_01000_1111111111111111#32, .lb 8#5 0xFFFF#16 9#5),
     (0b100100_01001_01000_0000000000000011#32, .lbu 8#5 0x0003#16 9#5),
     (0b100001_01001_01000_0000000000000010#32, .lh 8#5 0x0002#16 9#5),
     (0b100101_01001_01000_1000000000000000#32, .lhu 8#5 0x8000#16 9#5),
     (0b101011_01001_01000_0000000000001000#32, .sw 8#5 0x0008#16 9#5),
     (0b101000_01001_01000_0111111111111111#32, .sb 8#5 0x7FFF#16 9#5),
     (0b101001_01001_01000_0000000000000110#32, .sh 8#5 0x0006#16 9#5)] = true := by decide

/-- Written out from 30_encoding.md R71, R81. -/
theorem test_decode_register_alu : decodesAll
    [(0b000000_10001_10010_01000_00000_100000#32, .add 8#5 17#5 18#5),
     (0b000000_10001_10010_01000_00000_100001#32, .addu 8#5 17#5 18#5),
     (0b000000_10001_10010_01000_00000_100010#32, .sub 8#5 17#5 18#5),
     (0b000000_10001_10010_01000_00000_100011#32, .subu 8#5 17#5 18#5),
     (0b000000_10001_10010_01000_00000_101010#32, .slt 8#5 17#5 18#5),
     (0b000000_10001_10010_01000_00000_101011#32, .sltu 8#5 17#5 18#5),
     (0b000000_10001_10010_01000_00000_100100#32, .and 8#5 17#5 18#5),
     (0b000000_10001_10010_01000_00000_100101#32, .or 8#5 17#5 18#5),
     (0b000000_10001_10010_01000_00000_100110#32, .xor 8#5 17#5 18#5),
     (0b000000_10001_10010_01000_00000_100111#32, .nor 8#5 17#5 18#5)] = true := by decide

/-- Written out from 30_encoding.md R71, R81. -/
theorem test_decode_shifts : decodesAll
    [(0b000000_00000_01001_01000_00100_000000#32, .sll 8#5 9#5 4#5),
     (0b000000_00000_01001_01000_11111_000010#32, .srl 8#5 9#5 31#5),
     (0b000000_00000_01001_01000_00001_000011#32, .sra 8#5 9#5 1#5)] = true := by decide

/-- Written out from 30_encoding.md R90. -/
theorem test_decode_historical : decodesAll
    [(0b000000_01010_01001_01000_00000_000100#32, .sllv 8#5 9#5 10#5),
     (0b000000_01010_01001_01000_00000_000110#32, .srlv 8#5 9#5 10#5),
     (0b000000_01010_01001_01000_00000_000111#32, .srav 8#5 9#5 10#5),
     (0b000001_01000_10001_0000000000000100#32, .bgezal 8#5 4#16),
     (0b000001_01000_10000_0000000000000100#32, .bltzal 8#5 4#16)] = true := by decide

/-- Written out from 30_encoding.md R81, 90_conflicts.md C1. -/
theorem test_decode_multiply_and_divide : decodesAll
    [(0b000000_01001_01010_00000_00000_011000#32, .mult 9#5 10#5),
     (0b000000_01001_01010_00000_00000_011001#32, .multu 9#5 10#5),
     (0b000000_01001_01010_00000_00000_011010#32, .div 9#5 10#5),
     (0b000000_01001_01010_00000_00000_011011#32, .divu 9#5 10#5)] = true := by decide

/-- Written out from 30_encoding.md R72, R80. -/
theorem test_decode_immediate_alu : decodesAll
    [(0b001000_01001_01000_1111111111111100#32, .addi 8#5 9#5 0xFFFC#16),
     (0b001001_01001_01000_1111111111111100#32, .addiu 8#5 9#5 0xFFFC#16),
     (0b001100_01001_01000_1111111100000000#32, .andi 8#5 9#5 0xFF00#16),
     (0b001101_01001_01000_1000000000000001#32, .ori 8#5 9#5 0x8001#16),
     (0b001110_01001_01000_1111111111111111#32, .xori 8#5 9#5 0xFFFF#16),
     (0b001010_01001_01000_1111111111111111#32, .slti 8#5 9#5 0xFFFF#16),
     (0b001011_01001_01000_1111111111111111#32, .sltiu 8#5 9#5 0xFFFF#16),
     (0b001111_00000_01000_0001001000110100#32, .lui 8#5 0x1234#16)] = true := by decide

/-- Written out from 30_encoding.md R72, R80, R82. -/
theorem test_decode_branches : decodesAll
    [(0b000100_01000_01001_0000000000000011#32, .beq 8#5 9#5 3#16),
     (0b000101_01000_01001_1111111111111101#32, .bne 8#5 9#5 0xFFFD#16),
     (0b000110_01000_00000_0000000000000010#32, .blez 8#5 2#16),
     (0b000111_01000_00000_0000000000000010#32, .bgtz 8#5 2#16),
     (0b000001_01000_00000_0000000000000010#32, .bltz 8#5 2#16),
     (0b000001_01000_00001_0000000000000010#32, .bgez 8#5 2#16)] = true := by decide

/-- Written out from 30_encoding.md R71, R73, R80, R81. -/
theorem test_decode_jumps : decodesAll
    [(0b000010_00000000000000000100000000#32, .j 0x100#26),
     (0b000011_01000000000000000000000000#32, .jal 0x1000000#26),
     (0b000000_01001_00000_11111_00000_001001#32, .jalr 31#5 9#5),
     (0b000000_11111_00000_00000_00000_001000#32, .jr 31#5)] = true := by decide

/-- Written out from 30_encoding.md R71, R81. -/
theorem test_decode_hilo_moves : decodesAll
    [(0b000000_00000_00000_01000_00000_010000#32, .mfhi 8#5),
     (0b000000_00000_00000_01000_00000_010010#32, .mflo 8#5),
     (0b000000_01001_00000_00000_00000_010001#32, .mthi 9#5),
     (0b000000_01001_00000_00000_00000_010011#32, .mtlo 9#5)] = true := by decide

/-- Written out from 30_encoding.md R82, R89. -/
theorem test_decode_cp0 : decodesAll
    [(0b010000_00000_01000_01101_00000_000000#32, .mfc0 8#5 13#5 0#3),
     (0b010000_00100_01001_01101_00000_000000#32, .mtc0 9#5 13#5 0#3),
     (0b010000_1_0000000000000000000_011000#32, .eret)] = true := by decide

/-- Written out from 30_encoding.md R81, R84. -/
theorem test_decode_traps : decodesAll
    [(0b000000_00000000000000000000_001101#32, .brk),
     (0b000000_00000000000000000000_001100#32, .syscall)] = true := by decide

/-- The words of 95_test_vectors.md section 2.11 that are no instruction under the defaults. -/
theorem test_rejected_words :
    [0xFFFFFFFF#32, 0x00000001#32, 0x70000000#32, 0x05020000#32, 0x42000019#32, 0x41000000#32, 0xC1000000#32,
      0x0000000F#32].all (fun w => rejected defaultConfig w = some .noRow) = true ∧
    [0x01495004#32, 0x05110004#32].all (fun w => rejected defaultConfig w = some .historical) = true ∧
    [0x0000004C#32, 0x012A4060#32, 0x012A4018#32, 0x01204003#32, 0x42000058#32, 0x40086801#32, 0x3D081234#32,
      0x19010002#32, 0x03E00408#32].all (fun w => rejected defaultConfig w = some .unusedField) = true := by
  decide +kernel

/-- The same section's words that STRICT_DECODE false admits. -/
theorem test_loose_words :
    [0x0000004C#32, 0x012A4060#32, 0x012A4018#32, 0x01204003#32, 0x42000058#32, 0x40086801#32, 0x3D081234#32,
      0x19010002#32, 0x03E00408#32].all (fun w => rejected looseConfig w = none) = true := by decide

theorem test_truncated : (decodeBytes defaultConfig [0x0C#8, 0x00#8, 0x00#8]).toOption = none := by decide

theorem test_big_endian_bytes : bytesOfWord .big 4 0x11223344#32 = [0x11#8, 0x22#8, 0x33#8, 0x44#8] ∧
    bytesOfWord .little 4 0x11223344#32 = [0x44#8, 0x33#8, 0x22#8, 0x11#8] := by decide

/-! One step each, from 95_test_vectors.md sections 2.1 to 2.10. -/

/-- `lw $8, -4($9)` -/
theorem test_lw_negative_displacement : after (withData (runAt 0x100#32 0x8D28FFFC#32 [(9#5, 0x1004#32)]))
    (fun t => (t.readGpr 8#5, t.pc)) =
    some (0x1FF7F80#32, 0x104#32) := by decide

/-- `lw $8, 1($9)` -/
theorem test_lw_misaligned :
    stops (withData (runAt 0x100#32 0x8D280001#32 [(9#5, 0x1000#32)])) = some .misalignedAccess := by decide

/-- `lb $8, 0($9)` -/
theorem test_lb_sign_extends : after (withData (runAt 0x100#32 0x81280000#32 [(9#5, 0x1000#32)]))
    (fun t => (t.readGpr 8#5, t.pc)) =
    some (0xFFFFFF80#32, 0x104#32) := by decide

/-- `lbu $8, -1($0)` -/
theorem test_lbu_address_wraps : after (withBytes (runAt 0x100#32 0x9008FFFF#32 []) 0xFFFFFFFF#32 [0xAB#8])
    (fun t => (t.readGpr 8#5, t.pc)) =
    some (0xAB#32, 0x104#32) := by decide

/-- `lh $8, 4($9)` -/
theorem test_lh_sign_extends : after (withData (runAt 0x100#32 0x85280004#32 [(9#5, 0x1000#32)]))
    (fun t => (t.readGpr 8#5, t.pc)) =
    some (0xFFFF9234#32, 0x104#32) := by decide

/-- `lh $8, 1($9)` -/
theorem test_lh_misaligned :
    stops (withData (runAt 0x100#32 0x85280001#32 [(9#5, 0x1000#32)])) = some .misalignedAccess := by decide

/-- `lhu $8, 2($9)` -/
theorem test_lhu_zero_extends : after (withData (runAt 0x100#32 0x95280002#32 [(9#5, 0x1000#32)]))
    (fun t => (t.readGpr 8#5, t.pc)) =
    some (0x1FF#32, 0x104#32) := by decide

/-- `sw $8, 8($9)` -/
theorem test_sw_byte_order : after (runAt 0x100#32 0xAD280008#32 [(8#5, 0xDEADBEEF#32), (9#5, 0x2000#32)])
    (fun t => (Memory.read t.mem 0x00002008, Memory.read t.mem 0x00002009,
      Memory.read t.mem 0x0000200A, Memory.read t.mem 0x0000200B, t.pc)) =
    some (0xEF#8, 0xBE#8, 0xAD#8, 0xDE#8, 0x104#32) := by decide

/-- `sw $8, 2($9)` -/
theorem test_sw_misaligned :
    stops (runAt 0x100#32 0xAD280002#32 [(8#5, 0x1#32), (9#5, 0x2000#32)]) = some .misalignedAccess := by decide

/-- `sb $8, 3($9)` -/
theorem test_sb_low_byte : after (runAt 0x100#32 0xA1280003#32 [(8#5, 0x123456F0#32), (9#5, 0x2000#32)])
    (fun t => (Memory.read t.mem 0x00002003, t.pc)) =
    some (0xF0#8, 0x104#32) := by decide

/-- `sh $8, 2($9)` -/
theorem test_sh_low_half : after (runAt 0x100#32 0xA5280002#32 [(8#5, 0x1234ABCD#32), (9#5, 0x2000#32)])
    (fun t => (Memory.read t.mem 0x00002002, Memory.read t.mem 0x00002003, t.pc)) =
    some (0xCD#8, 0xAB#8, 0x104#32) := by decide

/-- `add $8, $9, $10` -/
theorem test_add_overflow_traps :
    after (runAt 0x100#32 0x12A4020#32 [(9#5, 0x7FFFFFFF#32), (10#5, 0x1#32), (8#5, 0x55#32)])
    (fun t => (t.readGpr 8#5, t.pc, t.cause, t.epc)) =
    some (0x55#32, 0x4000000#32, 0x30#32, 0x100#32) := by decide

/-- `add $8, $9, $10` -/
theorem test_add_mixed_signs : after (runAt 0x100#32 0x12A4020#32 [(9#5, 0x80000000#32), (10#5, 0x7FFFFFFF#32)])
    (fun t => (t.readGpr 8#5, t.pc)) =
    some (0xFFFFFFFF#32, 0x104#32) := by decide

/-- `addu $8, $9, $10` -/
theorem test_addu : after (runAt 0x100#32 0x12A4021#32 [(9#5, 0xFFFFFFFF#32), (10#5, 0x1#32), (8#5, 0x9#32)])
    (fun t => (t.readGpr 8#5, t.pc)) =
    some (0x0#32, 0x104#32) := by decide

/-- `sub $8, $9, $10` -/
theorem test_sub : after (runAt 0x100#32 0x12A4022#32 [(9#5, 0x5#32), (10#5, 0x7#32)])
    (fun t => (t.readGpr 8#5, t.pc)) =
    some (0xFFFFFFFE#32, 0x104#32) := by decide

/-- `sub $8, $9, $10` -/
theorem test_sub_overflow_traps : after (runAt 0x100#32 0x12A4022#32 [(9#5, 0x0#32), (10#5, 0x80000000#32)])
    (fun t => (t.pc, t.cause, t.epc)) =
    some (0x4000000#32, 0x30#32, 0x100#32) := by decide

/-- `subu $8, $9, $10` -/
theorem test_subu : after (runAt 0x100#32 0x12A4023#32 [(9#5, 0x0#32), (10#5, 0x1#32)])
    (fun t => (t.readGpr 8#5, t.pc)) =
    some (0xFFFFFFFF#32, 0x104#32) := by decide

/-- `slt $8, $9, $10` -/
theorem test_slt : after (runAt 0x100#32 0x12A402A#32 [(9#5, 0x7FFFFFFF#32), (10#5, 0x80000000#32), (8#5, 0x9#32)])
    (fun t => (t.readGpr 8#5, t.pc)) =
    some (0x0#32, 0x104#32) := by decide

/-- `sltu $8, $9, $10` -/
theorem test_sltu : after (runAt 0x100#32 0x12A402B#32 [(9#5, 0xFFFFFFFF#32), (10#5, 0x1#32), (8#5, 0x9#32)])
    (fun t => (t.readGpr 8#5, t.pc)) =
    some (0x0#32, 0x104#32) := by decide

/-- `and $8, $9, $10` -/
theorem test_and : after (runAt 0x100#32 0x12A4024#32 [(9#5, 0xFF00FF00#32), (10#5, 0xFF00FF0#32)])
    (fun t => (t.readGpr 8#5, t.pc)) =
    some (0xF000F00#32, 0x104#32) := by decide

/-- `or $8, $9, $10` -/
theorem test_or : after (runAt 0x100#32 0x12A4025#32 [(9#5, 0xFF00FF00#32), (10#5, 0xFF00FF0#32)])
    (fun t => (t.readGpr 8#5, t.pc)) =
    some (0xFFF0FFF0#32, 0x104#32) := by decide

/-- `xor $8, $9, $10` -/
theorem test_xor : after (runAt 0x100#32 0x12A4026#32 [(9#5, 0xFF00FF00#32), (10#5, 0xFF00FF0#32)])
    (fun t => (t.readGpr 8#5, t.pc)) =
    some (0xF0F0F0F0#32, 0x104#32) := by decide

/-- `nor $8, $9, $10` -/
theorem test_nor : after (runAt 0x100#32 0x12A4027#32 [(9#5, 0xFF00FF00#32), (10#5, 0xFF00FF0#32)])
    (fun t => (t.readGpr 8#5, t.pc)) =
    some (0xF000F#32, 0x104#32) := by decide

/-- `sll $8, $9, 31` -/
theorem test_sll_by_31 : after (runAt 0x100#32 0x947C0#32 [(9#5, 0x3#32)])
    (fun t => (t.readGpr 8#5, t.pc)) =
    some (0x80000000#32, 0x104#32) := by decide

/-- `srl $8, $9, 31` -/
theorem test_srl : after (runAt 0x100#32 0x947C2#32 [(9#5, 0x80000000#32)])
    (fun t => (t.readGpr 8#5, t.pc)) =
    some (0x1#32, 0x104#32) := by decide

/-- `sra $8, $9, 4` -/
theorem test_sra_floors : after (runAt 0x100#32 0x94103#32 [(9#5, 0xFFFFFFF1#32)])
    (fun t => (t.readGpr 8#5, t.pc)) =
    some (0xFFFFFFFF#32, 0x104#32) := by decide

/-- `sra $8, $9, 1` -/
theorem test_sra_sign_enters : after (runAt 0x100#32 0x94043#32 [(9#5, 0x80000000#32)])
    (fun t => (t.readGpr 8#5, t.pc)) =
    some (0xC0000000#32, 0x104#32) := by decide

/-- `sllv $8, $9, $10` -/
theorem test_sllv : after (runAt 0x100#32 0x1494004#32 [(9#5, 0x1#32), (10#5, 0x21#32)])
    (fun t => (t.readGpr 8#5, t.pc)) =
    some (0x2#32, 0x104#32) := by decide

/-- `srlv $8, $9, $10` -/
theorem test_srlv : after (runAt 0x100#32 0x1494006#32 [(9#5, 0x80000000#32), (10#5, 0xFFFFFFFF#32)])
    (fun t => (t.readGpr 8#5, t.pc)) =
    some (0x1#32, 0x104#32) := by decide

/-- `srav $8, $9, $10` -/
theorem test_srav : after (runAt 0x100#32 0x1494007#32 [(9#5, 0x80000000#32), (10#5, 0x4#32)])
    (fun t => (t.readGpr 8#5, t.pc)) =
    some (0xF8000000#32, 0x104#32) := by decide

/-- `mult $9, $10` -/
theorem test_mult_signed : after (runAt 0x100#32 0x12A0018#32 [(9#5, 0xFFFFFFFF#32), (10#5, 0x1#32)])
    (fun t => (t.pc, t.hi, t.lo)) =
    some (0x104#32, 0xFFFFFFFF#32, 0xFFFFFFFF#32) := by decide

/-- `mult $9, $10` -/
theorem test_mult_min_squared : after (runAt 0x100#32 0x12A0018#32 [(9#5, 0x80000000#32), (10#5, 0x80000000#32)])
    (fun t => (t.pc, t.hi, t.lo)) =
    some (0x104#32, 0x40000000#32, 0x0#32) := by decide

/-- `multu $9, $10` -/
theorem test_multu_unsigned : after (runAt 0x100#32 0x12A0019#32 [(9#5, 0xFFFFFFFF#32), (10#5, 0x1#32)])
    (fun t => (t.pc, t.hi, t.lo)) =
    some (0x104#32, 0x0#32, 0xFFFFFFFF#32) := by decide

/-- `div $9, $10` -/
theorem test_div_truncates_toward_zero : after (runAt 0x100#32 0x12A001A#32 [(9#5, 0xFFFFFFF9#32), (10#5, 0x2#32)])
    (fun t => (t.pc, t.hi, t.lo)) =
    some (0x104#32, 0xFFFFFFFF#32, 0xFFFFFFFD#32) := by decide

/-- `div $9, $10` -/
theorem test_div_by_zero_completes : after (runAt 0x100#32 0x12A001A#32 [(9#5, 0x5#32), (10#5, 0x0#32)])
    (fun t => t.pc) =
    some 0x104#32 := by decide

/-- `divu $9, $10` -/
theorem test_divu : after (runAt 0x100#32 0x12A001B#32 [(9#5, 0x80000000#32), (10#5, 0xFFFFFFFF#32)])
    (fun t => (t.pc, t.hi, t.lo)) =
    some (0x104#32, 0x80000000#32, 0x0#32) := by decide

/-- `addi $8, $9, 1` -/
theorem test_addi_overflow_traps : after (runAt 0x100#32 0x21280001#32 [(9#5, 0x7FFFFFFF#32), (8#5, 0x55#32)])
    (fun t => (t.readGpr 8#5, t.pc, t.cause, t.epc)) =
    some (0x55#32, 0x4000000#32, 0x30#32, 0x100#32) := by decide

/-- `addi $8, $9, 0x7FFF` -/
theorem test_addi_largest_sum : after (runAt 0x100#32 0x21287FFF#32 [(9#5, 0x7FFF8000#32)])
    (fun t => (t.readGpr 8#5, t.pc)) =
    some (0x7FFFFFFF#32, 0x104#32) := by decide

/-- `addiu $8, $9, -1` -/
theorem test_addiu : after (runAt 0x100#32 0x2528FFFF#32 [(9#5, 0x0#32)])
    (fun t => (t.readGpr 8#5, t.pc)) =
    some (0xFFFFFFFF#32, 0x104#32) := by decide

/-- `andi $8, $9, 0xFFFF` -/
theorem test_andi : after (runAt 0x100#32 0x3128FFFF#32 [(9#5, 0xABCD1234#32)])
    (fun t => (t.readGpr 8#5, t.pc)) =
    some (0x1234#32, 0x104#32) := by decide

/-- `ori $8, $9, 0x8000` -/
theorem test_ori : after (runAt 0x100#32 0x35288000#32 [(9#5, 0x10000#32)])
    (fun t => (t.readGpr 8#5, t.pc)) =
    some (0x18000#32, 0x104#32) := by decide

/-- `xori $8, $9, 0xFFFF` -/
theorem test_xori : after (runAt 0x100#32 0x3928FFFF#32 [(9#5, 0xFFFFFFFF#32)])
    (fun t => (t.readGpr 8#5, t.pc)) =
    some (0xFFFF0000#32, 0x104#32) := by decide

/-- `lui $8, 0xFFFF` -/
theorem test_lui : after (runAt 0x100#32 0x3C08FFFF#32 [])
    (fun t => (t.readGpr 8#5, t.pc)) =
    some (0xFFFF0000#32, 0x104#32) := by decide

/-- `slti $8, $9, -1` -/
theorem test_slti : after (runAt 0x100#32 0x2928FFFF#32 [(9#5, 0x0#32), (8#5, 0x9#32)])
    (fun t => (t.readGpr 8#5, t.pc)) =
    some (0x0#32, 0x104#32) := by decide

/-- `sltiu $8, $9, -32768` -/
theorem test_sltiu : after (runAt 0x100#32 0x2D288000#32 [(9#5, 0xFFFF#32)])
    (fun t => (t.readGpr 8#5, t.pc)) =
    some (0x1#32, 0x104#32) := by decide

/-- `beq $8, $9, -32768` -/
theorem test_beq_most_negative_offset : after (runAt 0x100#32 0x11098000#32 [(8#5, 0x1#32), (9#5, 0x1#32)])
    (fun t => t.pc) =
    some 0xFFFE0104#32 := by decide

/-- `beq $8, $9, 0x7FFF` -/
theorem test_beq_largest_offset : after (runAt 0x100#32 0x11097FFF#32 [(8#5, 0x1#32), (9#5, 0x1#32)])
    (fun t => t.pc) =
    some 0x20100#32 := by decide

/-- `bne $8, $9, -3` -/
theorem test_bne : after (runAt 0x100#32 0x1509FFFD#32 [(8#5, 0x5#32), (9#5, 0x6#32)])
    (fun t => t.pc) =
    some 0xF8#32 := by decide

/-- `blez $8, 2` -/
theorem test_blez_negative_taken : after (runAt 0x100#32 0x19000002#32 [(8#5, 0x80000000#32)])
    (fun t => t.pc) =
    some 0x10C#32 := by decide

/-- `blez $8, 2` -/
theorem test_blez_positive_not_taken : after (runAt 0x100#32 0x19000002#32 [(8#5, 0x1#32)])
    (fun t => t.pc) =
    some 0x104#32 := by decide

/-- `bgtz $8, 2` -/
theorem test_bgtz : after (runAt 0x100#32 0x1D000002#32 [(8#5, 0xFFFFFFFF#32)])
    (fun t => t.pc) =
    some 0x104#32 := by decide

/-- `bltz $8, 2` -/
theorem test_bltz : after (runAt 0x100#32 0x5000002#32 [(8#5, 0xFFFFFFFF#32)])
    (fun t => t.pc) =
    some 0x10C#32 := by decide

/-- `bgez $8, 2` -/
theorem test_bgez : after (runAt 0x100#32 0x5010002#32 [(8#5, 0x80000000#32)])
    (fun t => t.pc) =
    some 0x104#32 := by decide

/-- `bgezal $8, 4` -/
theorem test_bgezal_links_untaken : after (runAt 0x100#32 0x5110004#32 [(8#5, 0xFFFFFFFF#32)])
    (fun t => (t.readGpr 31#5, t.pc)) =
    some (0x104#32, 0x104#32) := by decide

/-- `bltzal $31, 4` -/
theorem test_bltzal_tests_old_ra : after (runAt 0x100#32 0x7F00004#32 [(31#5, 0x80000000#32)])
    (fun t => (t.readGpr 31#5, t.pc)) =
    some (0x104#32, 0x114#32) := by decide

/-- `j 0x400` -/
theorem test_j_region_of_next_pc : after (runAt 0xFFFFFFC#32 0x8000100#32 [])
    (fun t => t.pc) =
    some 0x10000400#32 := by decide

/-- `j 0x0FFFFFFC` -/
theorem test_j_largest_field : after (runAt 0x100#32 0xBFFFFFF#32 [])
    (fun t => t.pc) =
    some 0xFFFFFFC#32 := by decide

/-- `jal 0x04000000` -/
theorem test_jal : after (runAt 0x100#32 0xD000000#32 [])
    (fun t => (t.readGpr 31#5, t.pc)) =
    some (0x104#32, 0x4000000#32) := by decide

/-- `jalr $9, $9` -/
theorem test_jalr_same_register : after (runAt 0x100#32 0x1204809#32 [(9#5, 0x800#32)])
    (fun t => (t.readGpr 9#5, t.pc)) =
    some (0x104#32, 0x800#32) := by decide

/-- `jr $9` -/
theorem test_jr_misaligned_target : after (runAt 0x100#32 0x1200008#32 [(9#5, 0x802#32)])
    (fun t => t.pc) =
    some 0x802#32 := by decide

/-- `mfhi $8` -/
theorem test_mfhi : after (runAt 0x100#32 0x4010#32 [])
    (fun t => (t.readGpr 8#5, t.pc)) =
    some (0x11111111#32, 0x104#32) := by decide

/-- `mflo $8` -/
theorem test_mflo : after (runAt 0x100#32 0x4012#32 [])
    (fun t => (t.readGpr 8#5, t.pc)) =
    some (0x22222222#32, 0x104#32) := by decide

/-- `mthi $9` -/
theorem test_mthi : after (runAt 0x100#32 0x1200011#32 [(9#5, 0xDEADBEEF#32)])
    (fun t => (t.pc, t.hi)) =
    some (0x104#32, 0xDEADBEEF#32) := by decide

/-- `mtlo $9` -/
theorem test_mtlo : after (runAt 0x100#32 0x1200013#32 [(9#5, 0x7#32)])
    (fun t => (t.pc, t.lo)) =
    some (0x104#32, 0x7#32) := by decide

/-- `mfc0 $8, EPC` -/
theorem test_mfc0_epc : after ((runAt 0x100#32 0x40087000#32 []).setEpc 0x108#32)
    (fun t => (t.readGpr 8#5, t.pc)) =
    some (0x108#32, 0x104#32) := by decide

/-- `mfc0 $8, $9` -/
theorem test_mfc0_unimplemented :
    stops (runAt 0x100#32 0x40084800#32 []) = some .unimplementedCp0Register := by decide

/-- `mtc0 $9, Status` -/
theorem test_mtc0_status_reserved_ignored : after (runAt 0x100#32 0x40896000#32 [(9#5, 0xFFFFFFFF#32)])
    (fun t => (t.pc, t.status)) =
    some (0x104#32, 0x9FFFFE00#32) := by decide

/-- R223 and U5: without STRICT_DECODE bits 10:0 are ignored. -/
theorem test_mtc0_ignores_sel :
    after { runAt 0x100#32 0x40896001#32 [(9#5, 0x80000200#32)] with cfg := looseConfig } (fun t => (t.status, t.pc)) =
      some (0x80000200#32, 0x104#32) := by decide

/-- `mtc0 $9, Cause` -/
theorem test_mtc0_cause_reserved_ignored : after (runAt 0x100#32 0x40896800#32 [(9#5, 0xFFFFFFFF#32)])
    (fun t => (t.pc, t.cause)) =
    some (0x104#32, 0x9FFFFE7C#32) := by decide

/-- `eret` -/
theorem test_eret : after ((((runAt 0x100#32 0x42000018#32 []).setStatus 0x200#32).setCause 0x20#32).setEpc 0x108#32)
    (fun t => (t.pc, t.status)) =
    some (0x108#32, 0x80000200#32) := by decide

/-- `break` -/
theorem test_break : after ((runAt 0x100#32 0xD#32 []).setStatus 0x80000200#32)
    (fun t => (t.pc, t.cause, t.epc, t.status)) =
    some (0x4000000#32, 0x24#32, 0x104#32, 0x200#32) := by decide

/-- `syscall` -/
theorem test_syscall_keeps_pending : after (((runAt 0x100#32 0xC#32 []).setStatus 0x80000000#32).setCause 0xE00#32)
    (fun t => (t.pc, t.cause, t.epc, t.status)) =
    some (0x4000000#32, 0xE20#32, 0x104#32, 0x0#32) := by decide

/-- `syscall` -/
theorem test_syscall_epc_wraps : after ((runAt 0xFFFFFFFC#32 0xC#32 []).setEpc 0x55#32)
    (fun t => (t.pc, t.cause, t.epc)) =
    some (0x4000000#32, 0x20#32, 0x0#32) := by decide

/-- `addiu $8, $8, 1` -/
theorem test_interrupt_before_instruction :
    after (((runAt 0x100#32 0x25080001#32 [(8#5, 0x1#32)]).setStatus 0x80000200#32).setCause 0x200#32)
    (fun t => (t.pc, t.epc, t.status)) =
    some (0x4000000#32, 0x100#32, 0x200#32) := by decide

/-- `beq $0, $0, 5` -/
theorem test_interrupt_branch_victim :
    after (((runAt 0x100#32 0x10000005#32 []).setStatus 0x80000200#32).setCause 0x200#32)
    (fun t => (t.pc, t.cause, t.epc, t.status)) =
    some (0x4000000#32, 0x80000200#32, 0x100#32, 0x200#32) := by decide

/-- `syscall` -/
theorem test_interrupt_before_own_trap : after (((runAt 0x100#32 0xC#32 []).setStatus 0x80000200#32).setCause 0x220#32)
    (fun t => (t.pc, t.cause, t.epc, t.status)) =
    some (0x4000000#32, 0x200#32, 0x100#32, 0x200#32) := by decide

/-- `mtc0 $9, Status` -/
theorem test_interrupt_one_step_after_enable :
    after (((runAt 0x100#32 0x40896000#32 [(9#5, 0x80000200#32)]).setStatus 0x0#32).setCause 0x200#32)
    (fun t => (t.pc, t.status)) =
    some (0x104#32, 0x80000200#32) := by decide


/-! Witnesses: a state and operands that meet all the hypotheses of a statement, for each of its clauses. -/

/-- Some step from `s` gives a next state with the property. -/
def StepsTo (s : State) (p : State → Prop) : Prop := ∃ t, step s = .next t ∧ p t

theorem stepsTo_of_check {s : State} {p : State → Prop} [DecidablePred p]
    (h : after s (fun t => decide (p t)) = some true) : StepsTo s p := by
  unfold after at h
  split at h
  · next t ht => exact ⟨t, ht, by simpa using h⟩
  · cases h
  · cases h

/-- RAM below 0x1000, read-only bytes below 0x2000, a device below 0x2100, nothing above. -/
def smallConfig : Config :=
  { defaultConfig with
    memMap := [{ base := 0, size := 0x1000, kind := .ram, fetch := true, data := true },
      { base := 0x1000, size := 0x1000, kind := .rom, fetch := true, data := true },
      { base := 0x2000, size := 0x100, kind := .device, fetch := false, data := true }] }

/-- The machine right after launch with that map. -/
def small : State := State.launch smallConfig

/-- A machine about to fetch from a device. -/
def devicePc : State :=
  let map : List Region := [{ base := 0x2000, size := 0x100, kind := .device, fetch := true, data := true }]
  (State.launch { smallConfig with memMap := map }).setPc 0x2000#32

/-- A machine with interrupts enabled on line 0 and line 0 pending. -/
def interrupted (w : Word) : State :=
  ((runAt 0x100#32 w []).setStatus 0x80000200#32).setCause 0x00000200#32

theorem witness_DecodeOfEncodeIsTheInstruction :
    (Instr.add 31#5 0#5 16#5).wellFormed defaultConfig = true ∧ (Instr.srav 8#5 9#5 10#5).wellFormed histConfig = true ∧
    (Instr.mtc0 8#5 12#5 7#3).wellFormed looseConfig = true := by decide

theorem witness_StrictWordsAreCanonical : defaultConfig.strictDecode = true ∧
    (decodeWord defaultConfig 0x012A4020#32).toOption = some (.add 8#5 9#5 10#5) := by decide

theorem witness_DecoderAgreesWithOpcodeTable :
    (decodeWord looseConfig 0x012A4060#32).toOption = some (.add 8#5 9#5 10#5) ∧
    (⟨"lw", 0xFC000000#32, 0x8C000000#32, 0xFC000000#32, false⟩ : OpcodeRow) ∈ opcodeTable ∧
    (⟨"lw", 0xFC000000#32, 0x8C000000#32, 0xFC000000#32, false⟩ : OpcodeRow).admits defaultConfig 0x8FFFFFFF#32 =
      true := by decide

theorem witness_AtMostOneRowMatchesAWord :
    (⟨"eret", 0xFE00003F#32, 0x42000018#32, 0xFFFFFFFF#32, false⟩ : OpcodeRow) ∈ opcodeTable ∧
    (⟨"eret", 0xFE00003F#32, 0x42000018#32, 0xFFFFFFFF#32, false⟩ : OpcodeRow).matches 0x43FFFFD8#32 = true := by
  decide +kernel

theorem witness_RegisterZeroReadsZeroAndDiscardsWrites : destination (.addu 0#5 9#5 10#5) = some 0#5 ∧
    ∃ t, exec (.addu 0#5 9#5 10#5) State.reset = .next t := ⟨rfl, _, rfl⟩

/-- At the top of the address space. -/
theorem witness_LittleEndianByteOrder : State.reset.cfg.endian = .little ∧ Memory.wf State.reset.mem = true ∧
    (∃ v, State.reset.memRead .byte 0xFFFFFFFF#32 = .next v) ∧
      (∃ v, State.reset.memRead .half 0xFFFFFFFE#32 = .next v) ∧
    (∃ v, State.reset.memRead .word 0xFFFFFFFC#32 = .next v) ∧ (∃ v, State.reset.memFetch 0xFFFFFFFC#32 = .next v) ∧
    (∃ t, State.reset.memWrite .word 0xFFFFFFFC#32 0x11223344#32 = .next t) :=
  ⟨rfl, rfl, ⟨_, rfl⟩, ⟨_, rfl⟩, ⟨_, rfl⟩, ⟨_, rfl⟩, ⟨_, rfl⟩⟩

/-- At the top of the address space. -/
theorem witness_MixedWidthAccessesSeeTheirBytes : State.reset.cfg.endian = .little ∧ Memory.wf State.reset.mem = true ∧
    (∃ t, State.reset.memWrite .word 0xFFFFFFFC#32 0x11223344#32 = .next t) ∧
    AllPlain State.reset .load 0xFFFFFFFC#32 4 ∧ (∃ t, State.reset.memWrite .byte 0xFFFFFFFF#32 1#32 = .next t) ∧
    (∃ t, State.reset.memWrite .half 0xFFFFFFFE#32 1#32 = .next t) :=
  ⟨rfl, rfl, ⟨_, rfl⟩, by unfold AllPlain; decide, ⟨_, rfl⟩, ⟨_, rfl⟩⟩

theorem witness_CanonicalMemoriesThatReadAlikeAreEqual :
    Memory.wf [(0, 1#8), (0xFFFFFFFF, 2#8)] = true ∧ Memory.wf (Memory.write [(0, 1#8)] 0xFFFFFFFF 2#8) = true ∧
    ∀ a, Memory.read [(0, 1#8), (0xFFFFFFFF, 2#8)] a = Memory.read (Memory.write [(0, 1#8)] 0xFFFFFFFF 2#8) a :=
  ⟨rfl, rfl, fun _ => rfl⟩

/-- The last plain word, and the first address past the map. -/
theorem witness_LoadWord :
    ((small.effAddr 0#5 0x0FFC#16).toNat % 4 = 0 ∧ AllPlain small .load (small.effAddr 0#5 0x0FFC#16) 4) ∧
    (State.reset.effAddr 0#5 0xFFFC#16).toNat % 4 = 0 ∧
      AllPlain State.reset .load (State.reset.effAddr 0#5 0xFFFC#16) 4 ∧
    (small.effAddr 0#5 0x0FFD#16).toNat % 4 ≠ 0 ∧
    (small.effAddr 0#5 0x2100#16).toNat % 4 = 0 ∧ SomeUnmapped small .load (small.effAddr 0#5 0x2100#16) 4 := by
  unfold AllPlain SomeUnmapped; decide +kernel

theorem witness_LoadByteSignedAndUnsigned :
    AllPlain small .load (small.effAddr 0#5 0x1FFF#16) 1 ∧
    AllPlain State.reset .load (State.reset.effAddr 0#5 0xFFFF#16) 1 ∧
    SomeUnmapped small .load (small.effAddr 0#5 0x2100#16) 1 := by
  unfold AllPlain SomeUnmapped; decide +kernel

theorem witness_LoadHalfSignedAndUnsigned :
    ((small.effAddr 0#5 0x1FFE#16).toNat % 2 = 0 ∧ AllPlain small .load (small.effAddr 0#5 0x1FFE#16) 2) ∧
    (small.effAddr 0#5 0x0FFF#16).toNat % 2 ≠ 0 ∧
    (small.effAddr 0#5 0x2100#16).toNat % 2 = 0 ∧ SomeUnmapped small .load (small.effAddr 0#5 0x2100#16) 2 := by
  unfold AllPlain SomeUnmapped; decide +kernel

theorem witness_StoreWord : Memory.wf small.mem = true ∧
    ((small.effAddr 0#5 0x0FFC#16).toNat % 4 = 0 ∧ AllPlain small .store (small.effAddr 0#5 0x0FFC#16) 4) ∧
    (small.effAddr 0#5 0x0FFE#16).toNat % 4 ≠ 0 ∧
    (small.effAddr 0#5 0x2100#16).toNat % 4 = 0 ∧ SomeUnmapped small .store (small.effAddr 0#5 0x2100#16) 4 := by
  unfold AllPlain SomeUnmapped; decide +kernel

theorem witness_StoreByteAndHalf : Memory.wf small.mem = true ∧
    AllPlain small .store (small.effAddr 0#5 0x0FFF#16) 1 ∧
    ((small.effAddr 0#5 0x0FFE#16).toNat % 2 = 0 ∧ AllPlain small .store (small.effAddr 0#5 0x0FFE#16) 2) ∧
    (small.effAddr 0#5 0x0FFF#16).toNat % 2 ≠ 0 ∧
    SomeUnmapped small .store (small.effAddr 0#5 0x2100#16) 1 ∧
    (small.effAddr 0#5 0x2100#16).toNat % 2 = 0 ∧ SomeUnmapped small .store (small.effAddr 0#5 0x2100#16) 2 := by
  unfold AllPlain SomeUnmapped; decide +kernel

/-- The first read-only word, the last word of the device, and for the fetch its first word. -/
theorem witness_ReadOnlyAndDeviceAccessesStop :
    (dataAccess small (.lw 8#5 0x20FC#16 0#5) = some (.load, .word, 0x20FC#32) ∧
      dataAccess small (.sw 8#5 0x1000#16 0#5) = some (.store, .word, 0x1000#32) ∧
      dataAccess small (.sw 8#5 0x20FC#16 0#5) = some (.store, .word, 0x20FC#32)) ∧
    ((0x20FC#32).toNat % Width.word.bytes = 0 ∧ ¬SomeUnmapped small .load 0x20FC#32 4 ∧
      SomeDevice small .load 0x20FC#32 4) ∧
    ((0x1000#32).toNat % Width.word.bytes = 0 ∧ ¬SomeUnmapped small .store 0x1000#32 4 ∧
      SomeReadOnly small 0x1000#32 4) ∧
    (¬SomeUnmapped small .store 0x20FC#32 4 ∧ ¬SomeReadOnly small 0x20FC#32 4 ∧
      SomeDevice small .store 0x20FC#32 4) ∧
    (devicePc.latchIrq.interruptPending = false ∧ devicePc.pc.toNat % 4 = 0 ∧
      ¬SomeUnmapped devicePc .fetch devicePc.pc 4 ∧ SomeDevice devicePc .fetch devicePc.pc 4) := by
  unfold SomeUnmapped SomeDevice SomeReadOnly; decide +kernel

theorem witness_LoadAfterStoreGivesTheStoredValue : Memory.wf small.mem = true ∧
    ((small.effAddr 0#5 0x0FFC#16).toNat % 4 = 0 ∧ AllPlain small .store (small.effAddr 0#5 0x0FFC#16) 4 ∧
      AllPlain small .load (small.effAddr 0#5 0x0FFC#16) 4) ∧
    ((small.effAddr 0#5 0x0FFE#16).toNat % 2 = 0 ∧ AllPlain small .store (small.effAddr 0#5 0x0FFE#16) 2 ∧
      AllPlain small .load (small.effAddr 0#5 0x0FFE#16) 2) ∧
    AllPlain small .store (small.effAddr 0#5 0x0FFF#16) 1 ∧ AllPlain small .load (small.effAddr 0#5 0x0FFF#16) 1 := by
  unfold AllPlain; decide +kernel

/-- A machine with x[9] and x[10] given. -/
def withXY (a b : Word) : State := (State.reset.writeGpr 9#5 a).writeGpr 10#5 b

/-- The largest sum and the smallest difference that fit, and the next ones, which do not. -/
theorem witness_AddSubAddiWriteOrOverflow :
    (let s := withXY 0x7FFFFFFE#32 1#32;
      -2 ^ 31 ≤ (s.readGpr 9#5).toInt + (s.readGpr 10#5).toInt ∧
        (s.readGpr 9#5).toInt + (s.readGpr 10#5).toInt < 2 ^ 31 ∧
      -2 ^ 31 ≤ (s.readGpr 9#5).toInt + (1#16).toInt ∧ (s.readGpr 9#5).toInt + (1#16).toInt < 2 ^ 31) ∧
    (let s := withXY 0x80000001#32 1#32;
      -2 ^ 31 ≤ (s.readGpr 9#5).toInt - (s.readGpr 10#5).toInt ∧
        (s.readGpr 9#5).toInt - (s.readGpr 10#5).toInt < 2 ^ 31) ∧
    (let s := withXY 0x7FFFFFFF#32 1#32;
      ¬(-2 ^ 31 ≤ (s.readGpr 9#5).toInt + (s.readGpr 10#5).toInt ∧
        (s.readGpr 9#5).toInt + (s.readGpr 10#5).toInt < 2 ^ 31) ∧
      ¬(-2 ^ 31 ≤ (s.readGpr 9#5).toInt + (1#16).toInt ∧ (s.readGpr 9#5).toInt + (1#16).toInt < 2 ^ 31)) ∧
    (let s := withXY 0x80000000#32 1#32;
      ¬(-2 ^ 31 ≤ (s.readGpr 9#5).toInt - (s.readGpr 10#5).toInt ∧
        (s.readGpr 9#5).toInt - (s.readGpr 10#5).toInt < 2 ^ 31)) := by decide

theorem witness_CompareAndLogicWriteTheirValue : 31#5 ≠ 0#5 ∧ ((withXY 3#32 5#32).readGpr 9#5).toInt < 5 ∧
    (Instr.and 31#5 9#5 10#5, 0x24#32, 1#32) ∈
      [(Instr.and 31#5 9#5 10#5, 0x24#32, (withXY 3#32 5#32).readGpr 9#5 &&& (withXY 3#32 5#32).readGpr 10#5)] := by decide

/-- The clauses with a result at the ends of their ranges, and the three operand pairs without one. -/
theorem witness_DivideGivesQuotientAndRemainder :
    ((withXY 0x80000001#32 0xFFFFFFFF#32).readGpr 10#5 ≠ 0#32 ∧
      ¬((withXY 0x80000001#32 0xFFFFFFFF#32).readGpr 9#5 = 0x80000000#32 ∧
        (withXY 0x80000001#32 0xFFFFFFFF#32).readGpr 10#5 = 0xFFFFFFFF#32)) ∧
    ((withXY 0x80000000#32 1#32).readGpr 10#5 ≠ 0#32 ∧
      ¬((withXY 0x80000000#32 1#32).readGpr 9#5 = 0x80000000#32 ∧
        (withXY 0x80000000#32 1#32).readGpr 10#5 = 0xFFFFFFFF#32)) ∧
    (withXY 5#32 0#32).readGpr 10#5 = 0#32 ∧
    (withXY 0x80000000#32 0xFFFFFFFF#32).readGpr 9#5 = 0x80000000#32 ∧
    (withXY 0x80000000#32 0xFFFFFFFF#32).readGpr 10#5 = 0xFFFFFFFF#32 := by decide

/-- The most negative offset. -/
theorem witness_ConditionalBranches :
    0xFFFE0104#32 = (runAt 0x100#32 0#32 []).pc + 4#32 + BitVec.ofInt 32 (4 * (0x8000#16).toInt) := by decide

/-- The largest offset. -/
theorem witness_LinkingBranches :
    0x20100#32 = (runAt 0x100#32 0#32 []).pc + 4#32 + BitVec.ofInt 32 (4 * (0x7FFF#16).toInt) := by decide

/-- The last word of region 0. -/
theorem witness_JumpsAndTheirLinks : 0x10000400#32 =
    BitVec.ofNat 32 (((runAt 0x0FFFFFFC#32 0#32 []).pc + 4#32).toNat / 2 ^ 28 * 2 ^ 28 + (0x100#26).toNat * 4) := by
  decide +kernel

theorem witness_MoveFromCp0 : (11#5 ≠ 12#5 ∧ 11#5 ≠ 13#5 ∧ 11#5 ≠ 14#5 ∨ 0#3 ≠ 0#3) ∧
    (12#5 ≠ 12#5 ∧ 12#5 ≠ 13#5 ∧ 12#5 ≠ 14#5 ∨ 7#3 ≠ 0#3) ∧
    looseConfig.strictDecode = false ∧ 0x401F67F8#32 &&& 0xFFE00000#32 = 0x40000000#32 := by decide

theorem witness_MoveToCp0 : (15#5 ≠ 12#5 ∧ 15#5 ≠ 13#5 ∧ 15#5 ≠ 14#5) ∧
    looseConfig.strictDecode = false ∧ 0x409F67F9#32 &&& 0xFFE00000#32 = 0x40800000#32 := by decide

theorem witness_TrapThenReturnResumesAfterIt : (Instr.syscall = .syscall ∨ Instr.syscall = .brk) ∧
    (Instr.brk = .syscall ∨ Instr.brk = .brk) := by decide

theorem witness_OverflowThenReturnOverflowsAgain :
    ¬(-2 ^ 31 ≤ ((withXY 0x80000000#32 0xFFFFFFFF#32).readGpr 9#5).toInt +
        ((withXY 0x80000000#32 0xFFFFFFFF#32).readGpr 10#5).toInt ∧
      ((withXY 0x80000000#32 0xFFFFFFFF#32).readGpr 9#5).toInt +
        ((withXY 0x80000000#32 0xFFFFFFFF#32).readGpr 10#5).toInt < 2 ^ 31) := by decide

/-- At the last word of the address space. -/
theorem witness_StepRunsTheDecodedInstruction :
    let s := runAt 0xFFFFFFFC#32 0x10000001#32 [];
    s.latchIrq.interruptPending = false ∧ s.timerSignal = none ∧ s.pc.toNat % 4 = 0 ∧ AllPlain s .fetch s.pc 4 ∧
    (∀ j < 4, s.pc.toNat + j ∉ s.stored) ∧
    (decodeWord s.cfg (wordAt s.cfg.endian s.mem s.pc.toNat)).toOption = some (.beq 0#5 0#5 1#16) := by
  unfold AllPlain; decide +kernel

/-- The instruction fetched at pc once the requests are latched, if one is. -/
def fetched (s : State) : Option Instr :=
  match s.latchIrq.fetchInstr with
  | .next i => some i
  | _ => none

/-- A small machine of a platform with a timer whose exception has code 31, with these signals coming. -/
def withTimer (pc : Word) (ir : Word) (ticks : List Bool) : State :=
  { (runAt pc ir []).setTicks ticks with cfg := { defaultConfig with timer := some 31#5 } }

/-- Line 19, the last one, for the first clause; a masked line for the others; for the second no timer, and a timer that does
not signal yet; for the third a signal with IE 0. -/
theorem witness_InterruptIsTakenBeforeTheInstruction :
    (let s := (((runAt 0x100#32 0#32 []).setStatus 0x90000000#32).setIrq [0x80000#20]);
      s.latchIrq.ie = true ∧ s.latchIrq.im &&& s.latchIrq.ip ≠ 0#20) ∧
    (let s := ((runAt 0x100#32 0#32 []).setStatus 0x80000400#32).setCause 0x00000200#32;
      ¬(s.latchIrq.ie = true ∧ s.latchIrq.im &&& s.latchIrq.ip ≠ 0#20) ∧
      (s.cfg.timer = none ∨ s.ticks.head? ≠ some true)) ∧
    (let s := withTimer 0x100#32 0#32 [false, true];
      ¬(s.latchIrq.ie = true ∧ s.latchIrq.im &&& s.latchIrq.ip ≠ 0#20) ∧
      (s.cfg.timer = none ∨ s.ticks.head? ≠ some true)) ∧
    (let s := withTimer 0x100#32 0x2128FFFC#32 [true];
      ¬(s.latchIrq.ie = true ∧ s.latchIrq.im &&& s.latchIrq.ip ≠ 0#20) ∧
      s.cfg.timer = some 31#5 ∧ s.ticks.head? = some true ∧ fetched s = some (.addi 8#5 9#5 0xFFFC#16)) := by decide

/-- The signal is taken before the instruction, with the platform's code and EPC = pc; a false one is used up
(60_exceptions.md R272, R262; log 38). -/
theorem test_timer_signal :
    after (withTimer 0x100#32 0x2128FFFC#32 [true, false]) (fun t => (t.pc, t.epc, t.exc)) =
      some (0x04000000#32, 0x100#32, 31#5) ∧
    after (withTimer 0x100#32 0x2128FFFC#32 [true, false]) (fun t => (t.readGpr 8#5, t.ticks)) = some (0#32, [false]) ∧
    after (withTimer 0x100#32 0x2128FFFC#32 [false, true]) (fun t => (t.pc, t.readGpr 8#5, t.ticks)) =
      some (0x104#32, 0xFFFFFFFC#32, [true]) := by decide

/-- An enabled pending interrupt comes before the timer's signal, and so does a fault of the fetch (60_exceptions.md R257,
R259). -/
theorem test_timer_after_interrupt_and_fetch :
    after (((withTimer 0x100#32 0x2128FFFC#32 [true]).setStatus 0x80000200#32).setCause 0x00000200#32)
      (fun t => (t.pc, t.epc, t.exc)) = some (0x04000000#32, 0x100#32, 0#5) ∧
    stops (withTimer 0x102#32 0#32 [true]) = some .misalignedFetch ∧
    stops (withTimer 0x100#32 0x0000004C#32 [true]) = some .undefinedInstruction := by decide

/-- Without the parameter TIMER no signal is taken. -/
theorem test_timer_absent :
    after ((runAt 0x100#32 0x2128FFFC#32 []).setTicks [true]) (fun t => t.pc) = some 0x104#32 := by decide

theorem witness_InterruptRecordsABranchVictim :
    (StepTakes (interrupted 0x10000005#32) .interrupt ∧
      StepsTo (interrupted 0x10000005#32) fun t => t.br = true) ∧
    (StepTakes (interrupted 0x25080001#32) .interrupt ∧
      StepsTo (interrupted 0x25080001#32) fun t => t.br = false) ∧
    ¬SomeDevice (interrupted 0x10000005#32) .fetch (interrupted 0x10000005#32).pc 4 ∧
    ¬SomeDevice (interrupted 0x25080001#32) .fetch (interrupted 0x25080001#32).pc 4 :=
  ⟨⟨.inl ⟨rfl, by decide⟩, stepsTo_of_check (by decide)⟩, ⟨.inl ⟨rfl, by decide⟩, stepsTo_of_check (by decide)⟩,
    by unfold SomeDevice; decide, by unfold SomeDevice; decide⟩

/-- Off by one byte, just past the map, and one stored byte in the word. -/
theorem witness_FetchFaultsInOrder :
    (let s := runAt 0x103#32 0#32 [];
      s.latchIrq.interruptPending = false ∧ s.pc.toNat % 4 ≠ 0) ∧
    (let s := small.setPc 0x2000#32;
      s.latchIrq.interruptPending = false ∧ s.pc.toNat % 4 = 0 ∧ SomeUnmapped s .fetch s.pc 4) ∧
    (let s := (small.setPc 0x1FFC#32).setMem [] [0x1FFF];
      s.latchIrq.interruptPending = false ∧ s.pc.toNat % 4 = 0 ∧ AllPlain s .fetch s.pc 4 ∧
      ∃ j < 4, s.pc.toNat + j ∈ s.stored) := by
  unfold SomeUnmapped AllPlain; decide +kernel

theorem witness_UnadmittedWordsAreUndefined :
    let s := runAt 0x100#32 0x0000004C#32 [];
    s.latchIrq.interruptPending = false ∧ s.pc.toNat % 4 = 0 ∧ AllPlain s .fetch s.pc 4 ∧
    (∀ j < 4, s.pc.toNat + j ∉ s.stored) ∧
    ∀ r ∈ opcodeTable, r.admits s.cfg (wordAt s.cfg.endian s.mem s.pc.toNat) = false := by
  unfold AllPlain; decide +kernel

/-- A machine at `ir` whose run HALT ends so. -/
def withHalt (ir : Word) (h : RunEnd) : State :=
  { runAt 0x100#32 ir [] with cfg := { defaultConfig with halt := some h } }

/-- The pc where a run followed for two steps has ended; none if it has not. -/
def endPc (s : State) : Option Word :=
  match runToEnd 2 0 s with
  | .next (some t) => some t.pc
  | _ => none

/-- Each way to end, and none given; a branch to itself steps on (92_eei_decisions.md D35, 93_implementation_defined.md
U19). -/
theorem test_run_ends :
    endPc (withHalt 0x2128FFFC#32 (.steps 1)) = some 0x104#32 ∧ endPc (withHalt 0x2128FFFC#32 (.steps 3)) = none ∧
    endPc (withHalt 0x08000100#32 (.atPc 0x400#32)) = some 0x400#32 ∧
    endPc (withHalt 0x1000FFFF#32 .selfLoop) = some 0x100#32 ∧ endPc (withHalt 0x08000040#32 .selfLoop) = some 0x100#32 ∧
    endPc (withHalt 0x1500FFFF#32 .selfLoop) = none ∧ endPc (runAt 0x100#32 0x1000FFFF#32 []) = none ∧
    after (withHalt 0x1000FFFF#32 .selfLoop) (fun t => t.pc) = some 0x100#32 := by decide

theorem witness_RunEndsWhereHaltSays :
    (let s := withHalt 0x1000FFFF#32 .selfLoop;
      s.atSelfLoop = true ∧ s.latchIrq.interruptPending = false ∧ s.timerSignal = none) ∧
    (let s := withHalt 0x08000040#32 .selfLoop;
      s.atSelfLoop = true ∧ s.latchIrq.interruptPending = false ∧ s.timerSignal = none) := by decide

theorem witness_RequestsSetPendingBits :
    (State.reset.setIrq [0x80001#20, 2#20]).irq = 0x80001#20 :: [2#20] := rfl

/-- An ordinary word, the all-zero word, and a historical one. -/
theorem witness_PlacedWordIsTheNextInstruction :
    decodeTableWord 32 0x8FFFFFFF = some (.lw 31#5 0xFFFF#16 31#5) ∧ decodeTableWord 32 0 = some (.sll 0#5 0#5 0#5) ∧
    decodeTableWord 32 0x05110004 = some (.bgezal 8#5 4#16) := by decide

theorem witness_StepKeepsWellFormedness : (runAt 0x100#32 0xAD280008#32 [(8#5, 1#32)]).wf = true ∧
    StepsTo (runAt 0x100#32 0xAD280008#32 [(8#5, 1#32)]) fun t => t.stored ≠ [] :=
  ⟨by decide, stepsTo_of_check (by decide)⟩

theorem witness_StepKeepsParameters : StepsTo (runAt 0x100#32 0x40896000#32 [(9#5, 0xFFFFFFFF#32)]) fun t => t.ie = true :=
  stepsTo_of_check (by decide)

/-- A jump to an aligned address, and a jr to one that is not. -/
theorem witness_PcStaysAligned :
    ((runAt 0x100#32 0x08000100#32 []).cfg.excVector.toNat % 4 = 0 ∧
      (runAt 0x100#32 0x08000100#32 []).pc.toNat % 4 = 0 ∧
      StepsTo (runAt 0x100#32 0x08000100#32 []) fun t => t.pc = 0x400#32) ∧
    StepsTo (runAt 0x100#32 0x01200008#32 [(9#5, 0x803#32)]) fun t => t.pc.toNat % 4 ≠ 0 :=
  ⟨⟨by decide, by decide, stepsTo_of_check (by decide)⟩, stepsTo_of_check (by decide)⟩

theorem witness_StepWritesOnlyTheDestination :
    StepsTo (runAt 0x100#32 0x0C000100#32 []) fun t => t.readGpr 31#5 ≠ (runAt 0x100#32 0x0C000100#32 []).readGpr 31#5 :=
  stepsTo_of_check (by decide)

theorem witness_HiLoChangeOnlyByTheirInstructions :
    StepsTo (runAt 0x100#32 0x01200011#32 [(9#5, 5#32)]) (fun t => t.hi ≠ 0x11111111#32) ∧
    StepsTo (runAt 0x100#32 0x01200013#32 [(9#5, 5#32)]) (fun t => t.lo ≠ 0x22222222#32) :=
  ⟨stepsTo_of_check (by decide), stepsTo_of_check (by decide)⟩

theorem witness_MemoryChangesOnlyByStores :
    Memory.wf (runAt 0x100#32 0xA1280003#32 [(8#5, 1#32)]).mem = true ∧
    StepsTo (runAt 0x100#32 0xA1280003#32 [(8#5, 1#32)]) fun t =>
      Memory.read t.mem 3 ≠ Memory.read (runAt 0x100#32 0xA1280003#32 [(8#5, 1#32)]).mem 3 :=
  ⟨by decide, stepsTo_of_check (by decide)⟩

/-- Line 0's mask bit, and the last line's pending bit. -/
theorem witness_MaskAndPendingBitsAreMtc0s :
    (StepsTo (runAt 0x100#32 0x40896000#32 [(9#5, 0x200#32)]) fun t => t.im ≠ (runAt 0x100#32 0x40896000#32 []).im) ∧
    ((runAt 0x100#32 0x40806800#32 []).setCause 0x10000000#32).ip.getLsbD 19 = true ∧
    StepsTo ((runAt 0x100#32 0x40806800#32 []).setCause 0x10000000#32) fun t => t.ip.getLsbD 19 = false :=
  ⟨stepsTo_of_check (by decide), by decide, stepsTo_of_check (by decide)⟩

/-- An instruction that completes and one that faults, a load and a store at the last word, and another memory with the same
bytes there and at pc. -/
theorem witness_OnlyFetchLoadsAndStoresReachMemory :
    (dataAccess State.reset (.addu 8#5 9#5 10#5) = none ∧ ∃ t, exec (.addu 8#5 9#5 10#5) State.reset = .next t) ∧
    (dataAccess State.reset (.mfc0 8#5 9#5 0#3) = none ∧
      exec (.mfc0 8#5 9#5 0#3) State.reset = .fault .unimplementedCp0Register) ∧
    (dataAccess State.reset (.lw 8#5 0xFFFC#16 0#5) = some (.load, .word, 0xFFFFFFFC#32) ∧
      (∃ t, exec (.lw 8#5 0xFFFC#16 0#5) State.reset = .next t) ∧
      ∀ j < 4, Memory.read [(4, 1#8)] (0xFFFFFFFC + j) = Memory.read State.reset.mem (0xFFFFFFFC + j)) ∧
    (dataAccess State.reset (.sw 8#5 0xFFFC#16 0#5) = some (.store, .word, 0xFFFFFFFC#32) ∧
      ∃ t, exec (.sw 8#5 0xFFFC#16 0#5) State.reset = .next t) ∧
    ∀ j < 4, Memory.read [(4, 1#8)] (State.reset.pc.toNat + j) = Memory.read State.reset.mem (State.reset.pc.toNat + j) :=
  ⟨⟨rfl, _, rfl⟩, ⟨rfl, rfl⟩, ⟨rfl, ⟨_, rfl⟩, by decide⟩, ⟨rfl, _, rfl⟩, by decide⟩

theorem witness_InterruptEnableChanges :
    ((runAt 0x100#32 0x42000018#32 []).ie = false ∧ StepsTo (runAt 0x100#32 0x42000018#32 []) fun t => t.ie = true) ∧
    (((runAt 0x100#32 0x0000000C#32 []).setStatus 0x80000000#32).ie = true ∧
      StepsTo ((runAt 0x100#32 0x0000000C#32 []).setStatus 0x80000000#32) fun t => t.ie = false) :=
  ⟨⟨by decide, stepsTo_of_check (by decide)⟩, ⟨by decide, stepsTo_of_check (by decide)⟩⟩

/-- By an exception, and by mtc0. -/
theorem witness_EpcChanges :
    StepsTo (runAt 0x100#32 0x0000000D#32 []) (fun t => t.epc ≠ 0#32) ∧
    StepsTo (runAt 0x100#32 0x40897000#32 [(9#5, 0x12345679#32)]) (fun t => t.epc ≠ 0#32) :=
  ⟨stepsTo_of_check (by decide), stepsTo_of_check (by decide)⟩

/-- One step that stores. -/
theorem witness_UnstoredBytesAreConstantOverRuns :
    Memory.wf (runAt 0x100#32 0xA1280003#32 [(8#5, 1#32)]).mem = true ∧
    ∃ t, Sys2Proof.core.run 1 (runAt 0x100#32 0xA1280003#32 [(8#5, 1#32)]) = .next t := by
  refine ⟨by decide, ?_⟩
  obtain ⟨t, ht, -⟩ : StepsTo (runAt 0x100#32 0xA1280003#32 [(8#5, 1#32)]) fun t => t.pc = 0x104#32 :=
    stepsTo_of_check (by decide)
  exact ⟨t, by simp only [Host.Core.run, show Sys2Proof.core.step = step from rfl, ht]⟩

end Sys2Proof.Tests
end

section
/-! Independence from memory (20_memory.md R41): which meanings reach memory, and through which of the shared operations. -/

namespace Sys2Proof.Machine

/-! What it means that a meaning ignores memory. -/

/-- The first result, of a state whose memory is `m₀`, leaves memory alone, and the second is the same result with `m` in
place of memory. A refusal is related to nothing. -/
inductive SameUpToMemory (m₀ m : Memory) : Result State → Result State → Prop where
  | next (t : State) (kept : t.mem = m₀) : SameUpToMemory m₀ m (.next t) (.next (t.setMem m t.stored))
  | fault (f : Fault) : SameUpToMemory m₀ m (.fault f) (.fault f)

section
variable {m₀ m : Memory} {r r' : Result State}

theorem SameUpToMemory.next_of_next (h : SameUpToMemory m₀ m r r') {t : State} (hr : r = .next t) :
    t.mem = m₀ ∧ r' = .next (t.setMem m t.stored) := by
  cases h with
  | next u kept => cases hr; exact ⟨kept, rfl⟩
  | fault f => cases hr

theorem SameUpToMemory.fault_of_fault (h : SameUpToMemory m₀ m r r') {f : Fault} (hr : r = .fault f) :
    r' = .fault f := by
  cases h with
  | next u kept => cases hr
  | fault g => exact hr

/-- A choice that memory does not decide. -/
theorem SameUpToMemory.ite {p : Prop} [Decidable p] {q q' : Result State} (hr : SameUpToMemory m₀ m r r')
    (hq : SameUpToMemory m₀ m q q') : SameUpToMemory m₀ m (if p then r else q) (if p then r' else q') := by
  split
  · exact hr
  · exact hq

theorem SameUpToMemory.not_refused (h : SameUpToMemory m₀ m r r') (f : Refusal) : r ≠ .refused f := by
  cases h <;> simp

end

/-! Each shared completion, run with another memory. -/

/-- Writing a register commutes with replacing memory: the register file and memory are separate. -/
theorem State.writeGpr_setMem (s : State) (m : Memory) (st : List Nat) (r : Reg) (v : Word) :
    (s.setMem m st).writeGpr r v = (s.writeGpr r v).setMem m st := by
  unfold State.writeGpr; split <;> rfl

section
variable (s : State) (m : Memory)

theorem finishGpr_setMem (rd : Reg) (v : Word) :
    finishGpr (s.setMem m s.stored) rd v =
      .next ((s.writeGpr rd v).advance.setMem m (s.writeGpr rd v).advance.stored) := by
  simp only [finishGpr, State.writeGpr_setMem, State.advance_stored, State.writeGpr_stored]; rfl

theorem finishGpr_sameUpToMemory (rd : Reg) (v : Word) :
    SameUpToMemory s.mem m (finishGpr s rd v) (finishGpr (s.setMem m s.stored) rd v) := by
  rw [finishGpr_setMem]
  exact .next _ (by simp)

theorem finishOrOverflow_sameUpToMemory (rd : Reg) (r : BitVec 33) :
    SameUpToMemory s.mem m (finishOrOverflow s rd r) (finishOrOverflow (s.setMem m s.stored) rd r) :=
  .ite (.next (s.takeException .overflow false s.pc) rfl) (finishGpr_sameUpToMemory s m rd _)

theorem finishHiLo_sameUpToMemory (hi lo : Word) :
    SameUpToMemory s.mem m (finishHiLo s hi lo) (finishHiLo (s.setMem m s.stored) hi lo) :=
  .next ((s.setHi hi).setLo lo).advance rfl

theorem finishFreeHiLo_sameUpToMemory :
    SameUpToMemory s.mem m (finishFreeHiLo s) (finishFreeHiLo (s.setMem m s.stored)) :=
  .next ((((s.setLo _).setHi _).advance).draw 2) rfl

theorem finishBranch_sameUpToMemory (cond : Bool) (off : Imm16) :
    SameUpToMemory s.mem m (finishBranch s cond off) (finishBranch (s.setMem m s.stored) cond off) :=
  .next (s.setPc _) rfl

/-- Linking and transferring control, as jal, jalr and the linking branches do. -/
theorem link_sameUpToMemory (rd : Reg) (v target : Word) :
    SameUpToMemory s.mem m (.next ((s.writeGpr rd v).setPc target))
      (.next (((s.setMem m s.stored).writeGpr rd v).setPc target)) := by
  have h : ((s.setMem m s.stored).writeGpr rd v).setPc target =
      ((s.writeGpr rd v).setPc target).setMem m ((s.writeGpr rd v).setPc target).stored := by
    rw [State.writeGpr_setMem, State.setPc_stored, State.writeGpr_stored]; rfl
  rw [h]
  exact .next _ (by simp)

theorem finishBranchLink_sameUpToMemory (cond : Bool) (off : Imm16) :
    SameUpToMemory s.mem m (finishBranchLink s cond off) (finishBranchLink (s.setMem m s.stored) cond off) := by
  simp only [finishBranchLink, finishBranch, State.branchTarget, State.writeGpr_pc, State.setMem_pc]
  exact link_sameUpToMemory s m linkReg _ _

/-! The meanings with branches of their own. -/

theorem execDiv_sameUpToMemory (rs rt : Reg) :
    SameUpToMemory s.mem m (execDiv rs rt s) (execDiv rs rt (s.setMem m s.stored)) :=
  .ite (finishFreeHiLo_sameUpToMemory s m) (.ite (finishFreeHiLo_sameUpToMemory s m) (finishHiLo_sameUpToMemory s m _ _))

theorem execDivu_sameUpToMemory (rs rt : Reg) :
    SameUpToMemory s.mem m (execDivu rs rt s) (execDivu rs rt (s.setMem m s.stored)) :=
  .ite (finishFreeHiLo_sameUpToMemory s m) (finishHiLo_sameUpToMemory s m _ _)

/-- mfc0 writes a register, having drawn a free value for Status and Cause, or stops (47_cp0_privileged.md R222). -/
theorem execMfc0_sameUpToMemory (rt rd : Reg) (sel : BitVec 3) :
    SameUpToMemory s.mem m (execMfc0 rt rd sel s) (execMfc0 rt rd sel (s.setMem m s.stored)) := by
  unfold execMfc0 State.readCp0
  split_ifs
  · exact .fault _
  · exact finishGpr_sameUpToMemory (s.draw 1) m rt _
  · exact finishGpr_sameUpToMemory (s.draw 1) m rt _
  · exact finishGpr_sameUpToMemory s m rt _
  · exact .fault _

/-- mtc0 writes one of three registers or stops (47_cp0_privileged.md R223). -/
theorem execMtc0_sameUpToMemory (rt rd : Reg) (sel : BitVec 3) :
    SameUpToMemory s.mem m (execMtc0 rt rd sel s) (execMtc0 rt rd sel (s.setMem m s.stored)) := by
  unfold execMtc0 State.writeCp0
  split_ifs
  · exact .next (s.setStatus _).advance rfl
  · exact .next (s.setCause _).advance rfl
  · exact .next (s.setEpc _).advance rfl
  · exact .fault _

end

/-! Every instruction is a load, a store, or ignores memory. -/

/-- An instruction with no data access ignores memory (20_memory.md R41): its meaning is a completion that does, of values
read from the registers. -/
theorem exec_sameUpToMemory (s : State) (m : Memory) :
    ∀ i, dataAccess s i = none → SameUpToMemory s.mem m (exec i s) (exec i (s.setMem m s.stored))
  | .addu .., _ | .subu .., _ | .slt .., _ | .sltu .., _ | .and .., _ | .or .., _ | .xor .., _ | .nor .., _ =>
    finishGpr_sameUpToMemory s m _ _
  | .sll .., _ | .srl .., _ | .sra .., _ | .sllv .., _ | .srlv .., _ | .srav .., _ => finishGpr_sameUpToMemory s m _ _
  | .addiu .., _ | .andi .., _ | .ori .., _ | .xori .., _ | .lui .., _ | .slti .., _ | .sltiu .., _ =>
    finishGpr_sameUpToMemory s m _ _
  | .mfhi .., _ | .mflo .., _ => finishGpr_sameUpToMemory s m _ _
  | .add .., _ | .sub .., _ | .addi .., _ => finishOrOverflow_sameUpToMemory s m _ _
  | .mult .., _ | .multu .., _ => finishHiLo_sameUpToMemory s m _ _
  | .div .., _ => execDiv_sameUpToMemory s m _ _
  | .divu .., _ => execDivu_sameUpToMemory s m _ _
  | .beq .., _ | .bne .., _ | .blez .., _ | .bgtz .., _ | .bltz .., _ | .bgez .., _ => finishBranch_sameUpToMemory s m _ _
  | .bgezal .., _ | .bltzal .., _ => finishBranchLink_sameUpToMemory s m _ _
  | .jal .., _ | .jalr .., _ => link_sameUpToMemory s m _ _ _
  | .j .., _ | .jr .., _ => .next (s.setPc _) rfl
  | .mthi .., _ => .next (s.setHi _).advance rfl
  | .mtlo .., _ => .next (s.setLo _).advance rfl
  | .mfc0 .., _ => execMfc0_sameUpToMemory s m _ _ _
  | .mtc0 rt rd sel, _ => execMtc0_sameUpToMemory s m rt rd sel
  | .eret, _ => .next s.returnFromException rfl
  | .brk, _ | .syscall, _ => .next (s.takeException _ _ _) rfl

/-- An instruction that loads is `finishLoad` at the address of its access, from every state. -/
theorem exec_of_load {s : State} {w : Width} {ea : Word} :
    ∀ i, dataAccess s i = some (.load, w, ea) → ∃ ext rt off base,
      ea = s.effAddr base off ∧ ∀ u, exec i u = finishLoad u w ext rt off base
  | .lw _ off base, h | .lh _ off base, h | .lhu _ off base, h | .lb _ off base, h | .lbu _ off base, h => by
    cases h; exact ⟨_, _, off, base, rfl, fun _ => rfl⟩

/-- An instruction that stores is `finishStore` at the address of its access, from every state. -/
theorem exec_of_store {s : State} {w : Width} {ea : Word} :
    ∀ i, dataAccess s i = some (.store, w, ea) → ∃ rt off base,
      ea = s.effAddr base off ∧ ∀ u, exec i u = finishStore u w rt off base
  | .sw _ off base, h | .sh _ off base, h | .sb _ off base, h => by
    cases h; exact ⟨_, off, base, rfl, fun _ => rfl⟩

/-! The three that reach memory: load, store and fetch. -/

/-- Two memories with the same bytes at an access that does not wrap give it the same bytes. -/
theorem Memory.readBytes_congr {m m' : Memory} {ea : Word} {n : Nat} (h : ea.toNat + n ≤ 2 ^ 32)
    (hb : ∀ j < n, Memory.read m (ea.toNat + j) = Memory.read m' (ea.toNat + j)) :
    Memory.readBytes m ea n = Memory.readBytes m' ea n := by
  refine List.ext_getElem (by simp) fun k hk hk' => ?_
  rw [Memory.getElem_readBytes h hk, Memory.getElem_readBytes h hk']
  exact hb k (by simpa using hk)

/-- A load keeps memory and reads only the bytes of its access. -/
theorem finishLoad_setMem {s t : State} {m : Memory} {w : Width} {ext : Word → Word} {rt base : Reg} {off : Imm16}
    (hb : ∀ j < w.bytes,
      Memory.read m ((s.effAddr base off).toNat + j) = Memory.read s.mem ((s.effAddr base off).toNat + j))
    (h : finishLoad s w ext rt off base = .next t) :
    t.mem = s.mem ∧ finishLoad (s.setMem m s.stored) w ext rt off base = .next (t.setMem m t.stored) := by
  obtain ⟨ha, hp, rfl⟩ := finishLoad_next h
  refine ⟨by simp, andThen_next.2 ⟨_, memRead_next.2 ⟨ha, hp, rfl⟩, ?_⟩⟩
  have bytes : Memory.readBytes m (s.effAddr base off) w.bytes = Memory.readBytes s.mem (s.effAddr base off) w.bytes :=
    Memory.readBytes_congr (aligned_no_wrap ha) hb
  rw [← bytes]
  exact finishGpr_setMem s m rt _

/-- A store answers from any memory, and what it answers differs only in memory. -/
theorem finishStore_setMem {s t : State} (m : Memory) {w : Width} {rt base : Reg} {off : Imm16}
    (h : finishStore s w rt off base = .next t) :
    ∃ u, finishStore (s.setMem m s.stored) w rt off base = .next u ∧ u.setMem t.mem t.stored = t := by
  obtain ⟨ha, hp, rfl⟩ := finishStore_next h
  exact ⟨_, andThen_next.2 ⟨_, memWrite_next.2 ⟨ha, hp, rfl⟩, rfl⟩, rfl⟩

/-- A fetch reads only the four bytes at its address. -/
theorem memFetch_setMem {s : State} {m : Memory} {a : Word}
    (hb : ∀ j < 4, Memory.read m (a.toNat + j) = Memory.read s.mem (a.toNat + j)) :
    (s.setMem m s.stored).memFetch a = s.memFetch a := by
  by_cases ha : aligned .word a = true
  · unfold State.memFetch
    rw [State.setMem_mem, Memory.readBytes_congr (aligned_word_no_wrap ha) hb]
    rfl
  · rw [memFetch_misaligned (by simpa using ha), memFetch_misaligned (by simpa using ha)]

/-- Settles O60: by what access the instruction has. -/
theorem onlyFetchLoadsAndStoresReachMemory : Obligations.OnlyFetchLoadsAndStoresReachMemory := by
  intro s m
  refine ⟨fun i noAccess => ?_, fun i w ea load bytes t ht => ?_, fun i w ea store t ht => ?_, fun e br epc => ⟨rfl, rfl⟩,
    memFetch_setMem⟩
  · have same := exec_sameUpToMemory s m i noAccess
    exact ⟨fun _ => same.next_of_next, fun _ => same.fault_of_fault, same.not_refused⟩
  · obtain ⟨ext, rt, off, base, rfl, exec_eq⟩ := exec_of_load i load
    rw [exec_eq] at ht ⊢
    exact finishLoad_setMem bytes ht
  · obtain ⟨rt, off, base, rfl, exec_eq⟩ := exec_of_store i store
    rw [exec_eq] at ht ⊢
    exact finishStore_setMem m ht

end Sys2Proof.Machine
end

section
/-! Register instructions that write one value and raise no exception (41_alu_r.md R125 to R130). -/

namespace Sys2Proof.Machine

/-- The word of a comparison, in the spec's own writing of it (R125, R126). -/
theorem boolWord_decide (p : Prop) [Decidable p] : boolWord (decide p) = if p then 1#32 else 0#32 := by
  simp [boolWord]

theorem exec_slt (rd rs rt : Reg) (s : State) : exec (.slt rd rs rt) s =
    finishGpr s rd (if (s.readGpr rs).toInt < (s.readGpr rt).toInt then 1#32 else 0#32) := by
  rw [← boolWord_decide]; rfl

theorem exec_sltu (rd rs rt : Reg) (s : State) : exec (.sltu rd rs rt) s =
    finishGpr s rd (if (s.readGpr rs).toNat < (s.readGpr rt).toNat then 1#32 else 0#32) := by
  rw [← boolWord_decide]; rfl

/-- Writing a register other than x[0] and advancing leaves the value there and the Cp0 registers as before. -/
theorem finishGpr_readGpr_sameCp0 {rd : Reg} (s : State) (v : Word) (hd : rd ≠ 0#5) :
    ∃ t, finishGpr s rd v = .next t ∧ t.readGpr rd = v ∧ SameCp0 s t := by
  obtain ⟨t, answers, frame⟩ := finishGpr_frame s rd v
  exact ⟨t, answers, by rw [frame.gprs, if_pos ⟨rfl, hd⟩], frame.cp0⟩

/-- Settles O55: each of the six is an R-format word with its own func, and its meaning writes `rd` and advances. -/
theorem compareAndLogicWriteTheirValue : Obligations.CompareAndLogicWriteTheirValue := by
  intro rd rs rt s hd i code v row
  have writes : ∀ v, ∃ t, finishGpr s rd v = .next t ∧ t.readGpr rd = v ∧ SameCp0 s t :=
    fun v => finishGpr_readGpr_sameCp0 s v hd
  simp only [List.mem_cons, Prod.mk.injEq, List.not_mem_nil, or_false] at row
  obtain ⟨rfl, rfl, rfl⟩ | ⟨rfl, rfl, rfl⟩ | ⟨rfl, rfl, rfl⟩ | ⟨rfl, rfl, rfl⟩ | ⟨rfl, rfl, rfl⟩ | ⟨rfl, rfl, rfl⟩ := row
  · exact ⟨rType_and_funcMask rs rt rd 0#5 0x2A#6, exec_slt rd rs rt s ▸ writes _⟩
  · exact ⟨rType_and_funcMask rs rt rd 0#5 0x2B#6, exec_sltu rd rs rt s ▸ writes _⟩
  · exact ⟨rType_and_funcMask rs rt rd 0#5 0x24#6, writes _⟩
  · exact ⟨rType_and_funcMask rs rt rd 0#5 0x25#6, writes _⟩
  · exact ⟨rType_and_funcMask rs rt rd 0#5 0x26#6, writes _⟩
  · exact ⟨rType_and_funcMask rs rt rd 0#5 0x27#6, writes _⟩

end Sys2Proof.Machine
end

section
/-! The overflow test, as a question about integers (41_alu_r.md R137). -/

namespace Sys2Proof.Machine

/-- Bits 32 and 31 of a 33-bit result differ exactly if its value fits no signed 32-bit word. -/
theorem overflows_iff (r : BitVec 33) : overflows r = true ↔ OutOfRange r.toInt := by
  have bound := r.isLt
  have bit32 : r.getLsbD 32 = decide (r.toNat / 2 ^ 32 % 2 = 1) := Nat.testBit_eq_decide_div_mod_eq
  have bit31 : r.getLsbD 31 = decide (r.toNat / 2 ^ 31 % 2 = 1) := Nat.testBit_eq_decide_div_mod_eq
  rw [overflows, bne_iff_ne, bit32, bit31, Ne, decide_eq_decide, OutOfRange, BitVec.toInt_eq_toNat_cond]
  split <;> omega

theorem toInt_sum33 (a b : Word) : (sum33 a b).toInt = a.toInt + b.toInt := by
  have ha := a.toInt_lt; have ha' := a.le_toInt; have hb := b.toInt_lt; have hb' := b.le_toInt
  rw [sum33, BitVec.toInt_add, BitVec.toInt_signExtend_of_le (by decide), BitVec.toInt_signExtend_of_le (by decide)]
  exact Int.bmod_eq_of_le (by omega) (by omega)

theorem toInt_diff33 (a b : Word) : (diff33 a b).toInt = a.toInt - b.toInt := by
  have ha := a.toInt_lt; have ha' := a.le_toInt; have hb := b.toInt_lt; have hb' := b.le_toInt
  rw [diff33, BitVec.toInt_sub, BitVec.toInt_signExtend_of_le (by decide), BitVec.toInt_signExtend_of_le (by decide)]
  exact Int.bmod_eq_of_le (by omega) (by omega)

theorem toInt_signedImm (imm : Imm16) : (signedImm imm).toInt = imm.toInt :=
  BitVec.toInt_signExtend_of_le (by decide)

/-- The low 32 bits of a 33-bit result are its value modulo 2^32. -/
theorem setWidth_eq_ofInt (r : BitVec 33) : r.setWidth 32 = BitVec.ofInt 32 r.toInt := by
  refine BitVec.eq_of_toNat_eq ?_
  have bound := r.isLt
  rw [BitVec.toNat_setWidth, BitVec.toNat_ofInt, BitVec.toInt_eq_toNat_cond]
  split <;> omega

theorem overflows_sum33 (a b : Word) : overflows (sum33 a b) = true ↔ OutOfRange (a.toInt + b.toInt) := by
  rw [overflows_iff, toInt_sum33]

theorem overflows_diff33 (a b : Word) : overflows (diff33 a b) = true ↔ OutOfRange (a.toInt - b.toInt) := by
  rw [overflows_iff, toInt_diff33]

theorem overflows_sum33_signedImm (a : Word) (imm : Imm16) :
    overflows (sum33 a (signedImm imm)) = true ↔ OutOfRange (a.toInt + imm.toInt) := by
  rw [overflows_sum33, toInt_signedImm]

end Sys2Proof.Machine
end

section
/-! What an instruction can do, said once: every invariant of the step is read off this list. -/

namespace Sys2Proof.Machine

/-! Where an instruction may go (10_state.md R15, R16). -/

/-- From an aligned pc an instruction goes to an aligned address, but for the three that load pc from a register. -/
def NextPcAligned (s : State) (i : Instr) (a : Word) : Prop :=
  s.pc.toNat % 4 = 0 → a.toNat % 4 = 0 ∨ i.mnemonic ∈ ["jr", "jalr", "eret"]

theorem nextPcAligned_advance (s : State) (i : Instr) : NextPcAligned s i (s.pc + 4#32) := fun h => by
  left; rw [BitVec.toNat_add, BitVec.toNat_ofNat]; omega

theorem nextPcAligned_branchTarget (s : State) (i : Instr) (off : Imm16) :
    NextPcAligned s i (s.branchTarget off) := fun h => by
  left
  rw [State.branchTarget, BitVec.toNat_add, BitVec.toNat_add, BitVec.toNat_ofNat, BitVec.toNat_shiftLeft,
    Nat.shiftLeft_eq]
  omega

/-- The last two bits of a jump address are zero (30_encoding.md R79). -/
theorem nextPcAligned_jumpTarget (s : State) (i : Instr) (target : Target26) :
    NextPcAligned s i (s.jumpTarget target) := fun _ => by
  left
  have toNat_eq : (s.jumpTarget target).toNat = ((s.pc + 4#32).extractLsb' 28 4 ++ target).toNat <<< 2 ||| 0 :=
    BitVec.toNat_append _ _
  rw [toNat_eq, Nat.or_zero, Nat.shiftLeft_eq]
  omega

/-- What an instruction that answers may have done to the state. -/
inductive Effect (s : State) (i : Instr) : State → Prop where
  | goTo (a : Word) (target : NextPcAligned s i a) : Effect s i (s.setPc a)
  | writeGpr (d : Reg) (v a : Word) (draws : Nat) (dest : destination i = some d) (target : NextPcAligned s i a) :
      Effect s i (((s.draw draws).writeGpr d v).setPc a)
  | setHiLo (hi lo : Word) (draws : Nat) (name : i.mnemonic ∈ ["mult", "multu", "div", "divu"]) :
      Effect s i (((s.setHi hi).setLo lo).advance.draw draws)
  | setHi (v : Word) (name : i.mnemonic = "mthi") : Effect s i (s.setHi v).advance
  | setLo (v : Word) (name : i.mnemonic = "mtlo") : Effect s i (s.setLo v).advance
  | store (w : Width) (ea v : Word) (fits : aligned w ea = true) (name : i.mnemonic ∈ ["sw", "sb", "sh"]) :
      Effect s i (s.storeBytes w ea v).advance
  | setStatus (rt : Reg) (sel : BitVec 3) (is : i = .mtc0 rt 12#5 sel) :
      Effect s i (s.setStatus (mergeBits s.status (s.readGpr rt) (statusMask s.cfg))).advance
  | setCause (rt : Reg) (sel : BitVec 3) (is : i = .mtc0 rt 13#5 sel) :
      Effect s i (s.setCause (mergeBits s.cause (s.readGpr rt) (causeMask s.cfg))).advance
  | setEpc (rt : Reg) (sel : BitVec 3) (is : i = .mtc0 rt 14#5 sel) : Effect s i (s.setEpc (s.readGpr rt)).advance
  | eret (is : i = .eret) : Effect s i s.returnFromException
  | trap (e : Exc) (raised : Raises s i e) : Effect s i (s.takeException e false (savedPc s e))

section
variable {s t : State} {i : Instr}

theorem finishGpr_effect {d : Reg} {v : Word} (dest : destination i = some d) (h : finishGpr s d v = .next t) :
    Effect s i t :=
  finishGpr_next h ▸ .writeGpr (s := s) d v _ 0 dest (by simpa using nextPcAligned_advance s i)

theorem finishOrOverflow_effect {d : Reg} {r : BitVec 33} (dest : destination i = some d)
    (raised : overflows r = true → Raises s i .overflow) (h : finishOrOverflow s d r = .next t) : Effect s i t := by
  unfold finishOrOverflow at h
  split at h
  · next out => cases h; exact .trap .overflow (raised out)
  · exact finishGpr_effect dest h

theorem finishLoad_effect {w : Width} {ext : Word → Word} {rt base : Reg} {off : Imm16}
    (dest : destination i = some rt) (h : finishLoad s w ext rt off base = .next t) : Effect s i t := by
  obtain ⟨v, -, answers⟩ := andThen_next.1 h
  exact finishGpr_effect dest answers

theorem finishStore_effect {w : Width} {rt base : Reg} {off : Imm16} (name : i.mnemonic ∈ ["sw", "sb", "sh"])
    (h : finishStore s w rt off base = .next t) : Effect s i t := by
  obtain ⟨fits, -, rfl⟩ := finishStore_next h
  exact .store w _ _ fits name

theorem finishHiLo_effect {hi lo : Word} (name : i.mnemonic ∈ ["mult", "multu", "div", "divu"])
    (h : finishHiLo s hi lo = .next t) : Effect s i t :=
  finishHiLo_next h ▸ .setHiLo (s := s) hi lo 0 name

theorem finishFreeHiLo_effect (name : i.mnemonic ∈ ["mult", "multu", "div", "divu"])
    (h : finishFreeHiLo s = .next t) : Effect s i t :=
  finishFreeHiLo_next h ▸ .setHiLo (s := s) _ _ 2 name

theorem nextPcAligned_branch (s : State) (i : Instr) (cond : Bool) (off : Imm16) :
    NextPcAligned s i (if cond then s.branchTarget off else s.pc + 4#32) := by
  split
  · exact nextPcAligned_branchTarget s i off
  · exact nextPcAligned_advance s i

theorem finishBranch_effect {cond : Bool} {off : Imm16} (h : finishBranch s cond off = .next t) : Effect s i t := by
  cases h; exact .goTo _ (nextPcAligned_branch s i cond off)

theorem finishBranchLink_effect {cond : Bool} {off : Imm16} (dest : destination i = some linkReg)
    (h : finishBranchLink s cond off = .next t) : Effect s i t := by
  cases h
  refine .writeGpr (s := s) linkReg s.linkValue _ 0 dest ?_
  simpa [State.branchTarget] using nextPcAligned_branch s i cond off

theorem execDiv_effect {rs rt : Reg} (h : execDiv rs rt s = .next t) : Effect s (.div rs rt) t := by
  simp only [execDiv] at h
  split_ifs at h
  · exact finishFreeHiLo_effect (by simp [Instr.mnemonic]) h
  · exact finishFreeHiLo_effect (by simp [Instr.mnemonic]) h
  · exact finishHiLo_effect (by simp [Instr.mnemonic]) h

theorem execDivu_effect {rs rt : Reg} (h : execDivu rs rt s = .next t) : Effect s (.divu rs rt) t := by
  simp only [execDivu] at h
  split_ifs at h
  · exact finishFreeHiLo_effect (by simp [Instr.mnemonic]) h
  · exact finishHiLo_effect (by simp [Instr.mnemonic]) h

theorem execMfc0_effect {rt rd : Reg} {sel : BitVec 3} (h : execMfc0 rt rd sel s = .next t) :
    Effect s (.mfc0 rt rd sel) t := by
  obtain ⟨p, reads, answers⟩ := andThen_next.1 h
  obtain ⟨-, ⟨-, rfl⟩ | ⟨-, rfl⟩ | ⟨-, rfl⟩⟩ := readCp0_next.1 reads
  · cases answers; exact .writeGpr rt _ _ 1 rfl (by simpa using nextPcAligned_advance s _)
  · cases answers; exact .writeGpr rt _ _ 1 rfl (by simpa using nextPcAligned_advance s _)
  · exact finishGpr_effect rfl answers

theorem execMtc0_effect {rt rd : Reg} {sel : BitVec 3} (h : execMtc0 rt rd sel s = .next t) :
    Effect s (.mtc0 rt rd sel) t := by
  obtain ⟨u, writes, answers⟩ := andThen_next.1 h
  cases answers
  obtain ⟨rfl, rfl⟩ | ⟨rfl, rfl⟩ | ⟨rfl, rfl⟩ := writeCp0_next.1 writes
  · exact .setStatus rt sel rfl
  · exact .setCause rt sel rfl
  · exact .setEpc rt sel rfl

end

/-! When an instruction raises Overflow (60_exceptions.md R253). -/

theorem raises_add {s : State} {rd rs rt : Reg} (h : overflows (sum33 (s.readGpr rs) (s.readGpr rt)) = true) :
    Raises s (.add rd rs rt) .overflow :=
  .inr (.inr ⟨rfl, .inl ⟨rd, rs, rt, rfl, (overflows_sum33 _ _).1 h⟩⟩)

theorem raises_sub {s : State} {rd rs rt : Reg} (h : overflows (diff33 (s.readGpr rs) (s.readGpr rt)) = true) :
    Raises s (.sub rd rs rt) .overflow :=
  .inr (.inr ⟨rfl, .inr (.inl ⟨rd, rs, rt, rfl, (overflows_diff33 _ _).1 h⟩)⟩)

theorem raises_addi {s : State} {rt rs : Reg} {imm : Imm16}
    (h : overflows (sum33 (s.readGpr rs) (signedImm imm)) = true) : Raises s (.addi rt rs imm) .overflow :=
  .inr (.inr ⟨rfl, .inr (.inr ⟨rt, rs, imm, rfl, (overflows_sum33_signedImm _ _).1 h⟩)⟩)

/-- An instruction that raises an exception answers its entry, with nothing written before it. -/
theorem exec_of_raises {s : State} {i : Instr} {e : Exc} (h : Raises s i e) :
    exec i s = .next (s.takeException e false (savedPc s e)) := by
  obtain ⟨rfl, rfl⟩ | ⟨rfl, rfl⟩ | ⟨rfl, ⟨rd, rs, rt, rfl, out⟩ | ⟨rd, rs, rt, rfl, out⟩ | ⟨rt, rs, imm, rfl, out⟩⟩ := h
  · rfl
  · rfl
  · exact if_pos ((overflows_sum33 _ _).2 out)
  · exact if_pos ((overflows_diff33 _ _).2 out)
  · exact if_pos ((overflows_sum33_signedImm _ _).2 out)

/-- Whatever an instruction answers is one of the effects, by the completion its meaning ends in. -/
theorem exec_effect {s t : State} : ∀ i, exec i s = .next t → Effect s i t
  | .addu .., h | .subu .., h | .slt .., h | .sltu .., h | .and .., h | .or .., h | .xor .., h | .nor .., h =>
    finishGpr_effect rfl h
  | .sll .., h | .srl .., h | .sra .., h | .sllv .., h | .srlv .., h | .srav .., h => finishGpr_effect rfl h
  | .addiu .., h | .andi .., h | .ori .., h | .xori .., h | .lui .., h | .slti .., h | .sltiu .., h =>
    finishGpr_effect rfl h
  | .mfhi .., h | .mflo .., h => finishGpr_effect rfl h
  | .lw .., h | .lb .., h | .lbu .., h | .lh .., h | .lhu .., h => finishLoad_effect rfl h
  | .sw .., h | .sb .., h | .sh .., h => finishStore_effect (by simp [Instr.mnemonic]) h
  | .add .., h => finishOrOverflow_effect rfl raises_add h
  | .sub .., h => finishOrOverflow_effect rfl raises_sub h
  | .addi .., h => finishOrOverflow_effect rfl raises_addi h
  | .mult .., h | .multu .., h => finishHiLo_effect (by simp [Instr.mnemonic]) h
  | .div .., h => execDiv_effect h
  | .divu .., h => execDivu_effect h
  | .beq .., h | .bne .., h | .blez .., h | .bgtz .., h | .bltz .., h | .bgez .., h => finishBranch_effect h
  | .bgezal .., h | .bltzal .., h => finishBranchLink_effect rfl h
  | .j target, h => by cases h; exact .goTo _ (nextPcAligned_jumpTarget s _ target)
  | .jr .., h => by cases h; exact .goTo _ fun _ => .inr (by simp [Instr.mnemonic])
  | .jal target, h => by cases h; exact .writeGpr (s := s) _ _ _ 0 rfl (nextPcAligned_jumpTarget s _ target)
  | .jalr .., h => by cases h; exact .writeGpr (s := s) _ _ _ 0 rfl fun _ => .inr (by simp [Instr.mnemonic])
  | .mthi .., h => by cases h; exact .setHi _ rfl
  | .mtlo .., h => by cases h; exact .setLo _ rfl
  | .eret, h => by cases h; exact .eret rfl
  | .mfc0 .., h => execMfc0_effect h
  | .mtc0 .., h => execMtc0_effect h
  | .brk, h => by cases h; exact .trap .breakpoint (.inr (.inl ⟨rfl, rfl⟩))
  | .syscall, h => by cases h; exact .trap .syscall (.inl ⟨rfl, rfl⟩)

/-- What a step can do: enter the handler in place of an instruction, or have an instruction's effect. -/
theorem step_effect {s t : State} (h : step s = .next t) :
    (∃ e, StepTakes s e ∧ t = s.latchIrq.takeBeforeInstruction e) ∨ ∃ i, StepExecutes s i ∧ Effect s.latchIrq i t := by
  obtain taken | ⟨i, executes, answers⟩ := step_next.1 h
  · exact .inl taken
  · exact .inr ⟨i, executes, exec_effect i answers⟩

end Sys2Proof.Machine
end

section
/-! The well-formedness of a state, which every effect keeps (10_state.md R11, R27; 20_memory.md R40, R57). -/

namespace Sys2Proof.Machine

theorem State.wf_iff (s : State) : s.wf = true ↔
    Memory.wf s.mem = true ∧ storedWf s.stored = true ∧ s.gpr[0] = 0#32 ∧ s.status &&& ~~~statusMask s.cfg = 0#32 ∧
      s.cause &&& ~~~causeMask s.cfg = 0#32 := by
  simp only [State.wf, Bool.and_eq_true, beq_iff_eq, and_assoc]

/-- Reserved bits that keep their value stay zero. -/
theorem reserved_zero_of_bits {mask w w' : Word} (same : ∀ k, mask.getLsbD k = false → w'.getLsbD k = w.getLsbD k)
    (h : w &&& ~~~mask = 0#32) : w' &&& ~~~mask = 0#32 :=
  (and_not_eq_zero_iff _ _).2 fun k hk => (same k hk).trans ((and_not_eq_zero_iff _ _).1 h k hk)

/-- A write of the defined bits leaves the reserved ones (10_state.md R27). -/
theorem mergeBits_reserved_zero {mask old : Word} (new : Word) (h : old &&& ~~~mask = 0#32) :
    mergeBits old new mask &&& ~~~mask = 0#32 :=
  reserved_zero_of_bits (fun k hk => by simp [getLsbD_mergeBits, hk]) h

section
variable {s t : State} {i : Instr}

theorem State.latchIrq_wf (h : s.wf = true) : s.latchIrq.wf = true := by
  obtain ⟨mem, stored, gpr, status, cause⟩ := s.wf_iff.1 h
  refine s.latchIrq.wf_iff.2 ⟨by simpa, by simpa, by simpa, by simpa, ?_⟩
  rw [State.latchIrq_cfg]
  refine reserved_zero_of_bits (fun k hk => latchIrq_cause_bit ?_) cause
  simp at hk; omega

theorem State.takeException_wf (e : Exc) (br : Bool) (epc : Word) (h : s.wf = true) :
    (s.takeException e br epc).wf = true := by
  obtain ⟨mem, stored, gpr, status, cause⟩ := s.wf_iff.1 h
  have frame := (takeException_entry s e br epc).frame
  exact (State.wf_iff _).2 ⟨mem, stored, gpr, reserved_zero_of_bits frame.statusReserved status,
    reserved_zero_of_bits frame.causeReserved cause⟩

theorem State.takeBeforeInstruction_wf (e : Exc) (h : s.wf = true) : (s.takeBeforeInstruction e).wf = true := by
  have taken := State.takeException_wf e s.victimIsBranch s.pc h
  rw [State.wf_iff] at taken ⊢
  exact taken

theorem State.returnFromException_wf (h : s.wf = true) : s.returnFromException.wf = true := by
  obtain ⟨mem, stored, gpr, status, cause⟩ := s.wf_iff.1 h
  have frame := returnFromException_frame s
  exact (State.wf_iff _).2 ⟨mem, stored, gpr, reserved_zero_of_bits frame.statusReserved status,
    reserved_zero_of_bits frame.causeReserved cause⟩

theorem Effect.wf (effect : Effect s i t) (h : s.wf = true) : t.wf = true := by
  obtain ⟨mem, stored, gpr, status, cause⟩ := s.wf_iff.1 h
  cases effect with
  | goTo | writeGpr | setHiLo | setHi | setLo | setEpc =>
    exact (State.wf_iff _).2 (by simpa using ⟨mem, stored, gpr, status, cause⟩)
  | store w ea v =>
    obtain ⟨mem', stored'⟩ := storeBytes_wf w ea v mem stored
    exact (State.wf_iff _).2 (by simpa using ⟨mem', stored', gpr, status, cause⟩)
  | setStatus rt =>
    exact (State.wf_iff _).2 (by simpa using ⟨mem, stored, gpr, mergeBits_reserved_zero (s.readGpr rt) status, cause⟩)
  | setCause rt =>
    exact (State.wf_iff _).2 (by simpa using ⟨mem, stored, gpr, status, mergeBits_reserved_zero (s.readGpr rt) cause⟩)
  | eret => exact State.returnFromException_wf h
  | trap => exact State.takeException_wf _ _ _ h

end

/-- Settles O46: the entry and every effect keep each of the five parts. -/
theorem stepKeepsWellFormedness : Obligations.StepKeepsWellFormedness := by
  intro s t wf step_eq
  have latched := State.latchIrq_wf wf
  obtain ⟨e, -, rfl⟩ | ⟨i, -, effect⟩ := step_effect step_eq
  · exact State.takeBeforeInstruction_wf e latched
  · exact effect.wf latched

/-- Settles O47. -/
theorem resetIsWellFormed : Obligations.ResetIsWellFormed := by
  unfold Obligations.ResetIsWellFormed
  decide

end Sys2Proof.Machine
end

section
/-! What each part of the state is changed by. -/

namespace Sys2Proof.Machine

section
variable {s t : State} {i : Instr}

theorem Effect.cfg_eq (effect : Effect s i t) : t.cfg = s.cfg := by
  cases effect <;> simp

theorem Effect.nextPcAligned (effect : Effect s i t) (vector : s.cfg.excVector.toNat % 4 = 0) :
    NextPcAligned s i t.pc := by
  cases effect with
  | goTo a target | writeGpr d v a draws dest target => exact target
  | setHiLo | setHi | setLo | store | setStatus | setCause | setEpc => exact nextPcAligned_advance s i
  | eret is => subst is; exact fun _ => .inr (by decide)
  | trap => exact fun _ => .inl vector

/-- Only the destination is written, and never x[0]. -/
theorem Effect.destination_of_readGpr_ne (effect : Effect s i t) {r : Reg} (changed : t.readGpr r ≠ s.readGpr r) :
    destination i = some r ∧ r ≠ 0#5 := by
  cases effect with
  | writeGpr d v a draws dest target =>
    rw [State.setPc_readGpr, State.readGpr_writeGpr, State.draw_readGpr] at changed
    obtain ⟨rfl, nonzero⟩ : r = d ∧ d ≠ 0#5 := by
      by_contra other
      exact changed (if_neg other)
    exact ⟨dest, nonzero⟩
  | _ => exact absurd (by simp) changed

theorem Effect.name_of_hi_ne (effect : Effect s i t) (changed : t.hi ≠ s.hi) :
    i.mnemonic ∈ ["mult", "multu", "div", "divu", "mthi"] := by
  cases effect with
  | setHiLo hi lo draws name => exact List.mem_append_left ["mthi"] name
  | setHi v name => simp [name]
  | _ => exact absurd (by simp) changed

theorem Effect.name_of_lo_ne (effect : Effect s i t) (changed : t.lo ≠ s.lo) :
    i.mnemonic ∈ ["mult", "multu", "div", "divu", "mtlo"] := by
  cases effect with
  | setHiLo hi lo draws name => exact List.mem_append_left ["mtlo"] name
  | setLo v name => simp [name]
  | _ => exact absurd (by simp) changed

theorem Effect.stored_of_read_ne (effect : Effect s i t) (wf : Memory.wf s.mem = true) {a : Nat}
    (changed : Memory.read t.mem a ≠ Memory.read s.mem a) : a ∈ t.stored ∧ i.mnemonic ∈ ["sw", "sb", "sh"] := by
  cases effect with
  | store w ea v fits name =>
    have frame := storeBytes_frame (v := v) wf fits
    refine ⟨(frame.noted a).2 (.inr ?_), name⟩
    by_contra outside
    exact changed (frame.outside a fun k hk eq => outside ⟨k, hk, eq⟩)
  | _ => exact absurd (by simp) changed

theorem Effect.stored_subset (effect : Effect s i t) : ∀ a ∈ s.stored, a ∈ t.stored := by
  cases effect with
  | store w ea v => exact fun a h => (mem_noteAllStored _ _ _).2 (.inr h)
  | _ => simp

theorem Effect.mem_wf (effect : Effect s i t) (wf : Memory.wf s.mem = true) : Memory.wf t.mem = true := by
  cases effect with
  | store w ea v => exact Memory.wf_writeBytes wf _ _
  | _ => simpa using wf

theorem Effect.mtc0_of_im_ne (effect : Effect s i t) (changed : t.im ≠ s.im) : ∃ rt sel, i = .mtc0 rt 12#5 sel := by
  cases effect with
  | setStatus rt sel is => exact ⟨rt, sel, is⟩
  | eret => exact absurd (by simp) changed
  | trap => exact absurd (by simp) changed
  | _ => exact absurd (by simp [State.im]) changed

theorem Effect.mtc0_of_ip_cleared (effect : Effect s i t) {k : Nat} (before : s.ip.getLsbD k = true)
    (after : t.ip.getLsbD k = false) : ∃ rt sel, i = .mtc0 rt 13#5 sel := by
  have changed : t.ip ≠ s.ip := fun same => by simp [same, before] at after
  cases effect with
  | setCause rt sel is => exact ⟨rt, sel, is⟩
  | eret => exact absurd (by simp) changed
  | trap => exact absurd (by simp) changed
  | _ => exact absurd (by simp [State.ip]) changed

/-- What may change IE: eret sets it, the entry of an exception clears it, and mtc0 to Status does either
(10_state.md R21). -/
theorem Effect.of_ie_ne (effect : Effect s i t) (changed : t.ie ≠ s.ie) :
    (t.ie = true ∧ i = .eret) ∨ (t.ie = false ∧ ∃ e, Raises s i e ∧ t = s.takeException e false (savedPc s e)) ∨
      ∃ rt sel, i = .mtc0 rt 12#5 sel := by
  cases effect with
  | setStatus rt sel is => exact .inr (.inr ⟨rt, sel, is⟩)
  | eret is => exact .inl ⟨by simp, is⟩
  | trap e raised => exact .inr (.inl ⟨by simp, e, raised, rfl⟩)
  | _ => exact absurd (by simp [State.ie]) changed

/-- What may change EPC: the entry of an exception and mtc0 (10_state.md R25). -/
theorem Effect.of_epc_ne (effect : Effect s i t) (changed : t.epc ≠ s.epc) :
    (∃ e, Raises s i e ∧ t = s.takeException e false (savedPc s e)) ∨
      ∃ rt sel, i = .mtc0 rt 14#5 sel ∧ t.epc = s.readGpr rt := by
  cases effect with
  | setEpc rt sel is => exact .inr ⟨rt, sel, is, rfl⟩
  | trap e raised => exact .inl ⟨e, raised, rfl⟩
  | _ => exact absurd (by simp) changed

end

/-! The exceptions of a step (60_exceptions.md R259, R262). -/

section
variable {s t : State} {e : Exc} {i : Instr}

theorem savedPc_latchIrq (s : State) (e : Exc) : savedPc s.latchIrq e = savedPc s e := by
  cases e <;> simp [savedPc]

/-- What a step takes in place of an instruction saves pc. -/
theorem StepTakes.savedPc_eq (taken : StepTakes s e) : savedPc s e = s.pc := by
  obtain ⟨rfl, -⟩ | ⟨code, i, rfl, -⟩ := taken <;> rfl

theorem StepTakes.enters (taken : StepTakes s e) : StepEnters s (s.latchIrq.takeBeforeInstruction e) e := by
  have entry := takeBeforeInstruction_entry s.latchIrq e
  rw [State.latchIrq_pc, State.latchIrq_cfg, ← taken.savedPc_eq] at entry
  exact ⟨.inl taken, _, entry⟩

theorem StepExecutes.enters (executes : StepExecutes s i) (raised : Raises s.latchIrq i e)
    (eq : t = s.latchIrq.takeException e false (savedPc s.latchIrq e)) : StepEnters s t e := by
  have entry := takeException_entry s.latchIrq e false (savedPc s.latchIrq e)
  rw [← eq, State.latchIrq_cfg, savedPc_latchIrq] at entry
  exact ⟨.inr ⟨i, executes, raised⟩, _, entry⟩

/-- A step that raises an exception answers its entry. -/
theorem StepRaises.enters (raises : StepRaises s e) (step_eq : step s = .next t) : StepEnters s t e := by
  obtain taken | ⟨i, executes, raised⟩ := raises
  · cases step_eq.symm.trans (step_next.2 (.inl ⟨e, taken, rfl⟩))
    exact taken.enters
  · cases step_eq.symm.trans (step_next.2 (.inr ⟨i, executes, exec_of_raises raised⟩))
    exact executes.enters raised rfl

end

/-! The rules over every step. -/

/-- Settles O49. -/
theorem stepKeepsParameters : Obligations.StepKeepsParameters := by
  intro s t step_eq
  obtain ⟨e, taken, rfl⟩ | ⟨i, -, effect⟩ := step_effect step_eq
  · exact taken.enters.2.elim fun _ entry => entry.frame.inputs.2.2.trans s.latchIrq_cfg
  · exact effect.cfg_eq.trans s.latchIrq_cfg

/-- Settles O50: the handler's address is aligned, and so is the next pc of every effect but those of jr, jalr and
eret. -/
theorem pcStaysAligned : Obligations.PcStaysAligned := by
  intro s t vector pc step_eq
  rw [← s.latchIrq_cfg] at vector
  obtain ⟨e, -, rfl⟩ | ⟨i, executes, effect⟩ := step_effect step_eq
  · exact .inl vector
  · exact (effect.nextPcAligned vector (by simpa using pc)).imp id fun name => ⟨i, executes, name⟩

/-- Settles O51: an entry keeps every general register, and an effect writes its destination only. -/
theorem stepWritesOnlyTheDestination : Obligations.StepWritesOnlyTheDestination := by
  intro s t r step_eq changed
  rw [← s.latchIrq_readGpr] at changed
  have quiet : ∀ e, ¬StepRaises s e := fun e raises => by
    obtain ⟨-, br, entry⟩ := raises.enters step_eq
    exact changed (entry.frame.gprs r)
  obtain ⟨e, taken, -⟩ | ⟨i, executes, effect⟩ := step_effect step_eq
  · exact absurd (.inl taken) (quiet e)
  · exact ⟨⟨i, executes, (effect.destination_of_readGpr_ne changed).1⟩, quiet⟩

/-- Settles O52. -/
theorem hiLoChangeOnlyByTheirInstructions : Obligations.HiLoChangeOnlyByTheirInstructions := by
  intro s t step_eq
  rw [← s.latchIrq_hi, ← s.latchIrq_lo]
  obtain ⟨e, -, rfl⟩ | ⟨i, executes, effect⟩ := step_effect step_eq
  · exact ⟨fun changed => absurd rfl changed, fun changed => absurd rfl changed⟩
  · exact ⟨fun changed => ⟨i, executes, effect.name_of_hi_ne changed⟩,
      fun changed => ⟨i, executes, effect.name_of_lo_ne changed⟩⟩

/-- Settles O53: among the effects only a store writes memory, and it notes what it writes. -/
theorem memoryChangesOnlyByStores : Obligations.MemoryChangesOnlyByStores := by
  intro s t a wf step_eq changed
  rw [← s.latchIrq_mem] at wf changed
  obtain ⟨e, -, rfl⟩ | ⟨i, executes, effect⟩ := step_effect step_eq
  · exact absurd rfl changed
  · obtain ⟨noted, name⟩ := effect.stored_of_read_ne wf changed
    exact ⟨noted, i, executes, name⟩

/-- Settles O54: latching clears no pending bit, and of the effects only mtc0 writes IM or clears one. -/
theorem maskAndPendingBitsAreMtc0s : Obligations.MaskAndPendingBitsAreMtc0s := by
  intro s t step_eq
  have im_latched : s.latchIrq.im = s.im := by simp [State.im]
  obtain ⟨e, taken, rfl⟩ | ⟨i, executes, effect⟩ := step_effect step_eq
  · obtain ⟨-, br, entry⟩ := taken.enters
    refine ⟨fun changed => absurd (entry.frame.im.trans im_latched) changed, fun k before after => ?_⟩
    rw [entry.frame.ip, latchIrq_keeps_pending before] at after
    cases after
  · refine ⟨fun changed => ?_, fun k before after => ?_⟩
    · obtain ⟨rt, sel, rfl⟩ := effect.mtc0_of_im_ne (im_latched ▸ changed)
      exact ⟨rt, sel, executes⟩
    · obtain ⟨rt, sel, rfl⟩ := effect.mtc0_of_ip_cleared (latchIrq_keeps_pending before) after
      exact ⟨rt, sel, executes⟩

/-- Settles O56. -/
theorem interruptEnableChanges : Obligations.InterruptEnableChanges := by
  intro s t step_eq
  have ie_latched : s.latchIrq.ie = s.ie := by simp [State.ie]
  rw [← ie_latched]
  obtain ⟨e, taken, rfl⟩ | ⟨i, executes, effect⟩ := step_effect step_eq
  · obtain ⟨raises, br, entry⟩ := taken.enters
    exact ⟨fun _ set => absurd entry.ie (by simp [set]), fun _ _ => .inl ⟨e, raises, br, entry⟩⟩
  · refine ⟨fun before set => ?_, fun before cleared => ?_⟩
    · obtain ⟨-, rfl⟩ | ⟨clear, -⟩ | ⟨rt, sel, rfl⟩ := effect.of_ie_ne (by simp [before, set])
      · exact .inl executes
      · exact absurd clear (by simp [set])
      · exact .inr ⟨rt, sel, executes⟩
    · obtain ⟨set, -⟩ | ⟨-, e, raised, eq⟩ | ⟨rt, sel, rfl⟩ := effect.of_ie_ne (by simp [before, cleared])
      · exact absurd set (by simp [cleared])
      · exact .inl ⟨e, executes.enters raised eq⟩
      · exact .inr ⟨rt, sel, executes⟩

/-- Settles O57. -/
theorem epcChanges : Obligations.EpcChanges := by
  intro s t step_eq changed
  obtain ⟨e, taken, rfl⟩ | ⟨i, executes, effect⟩ := step_effect step_eq
  · exact .inl ⟨e, taken.enters⟩
  · obtain ⟨e, raised, eq⟩ | ⟨rt, sel, rfl, epc⟩ := effect.of_epc_ne (by simpa using changed)
    · exact .inl ⟨e, executes.enters raised eq⟩
    · exact .inr ⟨rt, sel, executes, by simpa using epc⟩

/-- A step keeps every note of a store, and the canonical form of memory. -/
theorem step_keeps_stored_and_mem_wf {s t : State} (step_eq : step s = .next t) (wf : Memory.wf s.mem = true) :
    (∀ a ∈ s.stored, a ∈ t.stored) ∧ Memory.wf t.mem = true := by
  rw [← s.latchIrq_stored]
  rw [← s.latchIrq_mem] at wf
  obtain ⟨e, -, rfl⟩ | ⟨i, -, effect⟩ := step_effect step_eq
  · exact ⟨fun _ h => h, wf⟩
  · exact ⟨effect.stored_subset, effect.mem_wf wf⟩

/-- One step more at the front of a run. -/
theorem run_succ_next {s t : State} {k : Nat} :
    Sys2Proof.core.run (k + 1) s = .next t ↔ ∃ u, step s = .next u ∧ Sys2Proof.core.run k u = .next t := by
  simp only [Host.Core.run, show Sys2Proof.core.step = step from rfl]
  cases step s <;> simp

/-- Settles O58, by induction on the number of steps: a byte that changes is noted at that step (O53), and no later step
loses the note. -/
theorem unstoredBytesAreConstantOverRuns : Obligations.UnstoredBytesAreConstantOverRuns := by
  intro k
  induction k with
  | zero => rintro s t - run_eq; cases run_eq; exact ⟨fun _ h => h, fun _ _ => rfl⟩
  | succ k ih =>
    intro s t wf run_eq
    obtain ⟨u, step_eq, rest⟩ := run_succ_next.1 run_eq
    obtain ⟨notes, wf_u⟩ := step_keeps_stored_and_mem_wf step_eq wf
    obtain ⟨notes', bytes'⟩ := ih u t wf_u rest
    refine ⟨fun a h => notes' a (notes a h), fun a unstored => (bytes' a unstored).trans ?_⟩
    by_contra changed
    exact unstored (notes' a (memoryChangesOnlyByStores s u a wf step_eq changed).1)

/-- Settles O6: a write to x[0] is no write, and nothing else writes a register. -/
theorem registerZeroReadsZeroAndDiscardsWrites : Obligations.RegisterZeroReadsZeroAndDiscardsWrites := by
  refine ⟨State.readGpr_zero, fun i s t zero answers r => ?_⟩
  by_contra changed
  obtain ⟨dest, nonzero⟩ := (exec_effect i answers).destination_of_readGpr_ne changed
  exact nonzero (Option.some.inj (dest.symm.trans zero))

end Sys2Proof.Machine
end

section
/-! The six fields of 30_encoding.md R71 make up a word; each format as the words with its fields. -/

namespace Sys2Proof

/-- Words with the same bits from `lo` on, for a field that begins there. -/
theorem getLsbD_eq_of_extract_eq {v w : Word} {lo n k : Nat} (h : v.extractLsb' lo n = w.extractLsb' lo n) (hlo : lo ≤ k)
    (hk : k < lo + n) : v.getLsbD k = w.getLsbD k := by
  have bit := congrArg (fun x => x.getLsbD (k - lo)) h
  simpa [show k - lo < n by omega, show lo + (k - lo) = k by omega] using bit

/-- Two words with the same six fields are equal. -/
theorem eq_of_fields {v w : Word} (op : opcodeField v = opcodeField w) (rs : rsField v = rsField w)
    (rt : rtField v = rtField w) (rd : rdField v = rdField w) (sh : shamtField v = shamtField w)
    (fn : funcField v = funcField w) : v = w := by
  refine BitVec.eq_of_getLsbD_eq fun k hk => ?_
  rcases Nat.lt_or_ge k 6 with h0 | h0
  · exact getLsbD_eq_of_extract_eq fn (Nat.zero_le k) h0
  rcases Nat.lt_or_ge k 11 with h1 | h1
  · exact getLsbD_eq_of_extract_eq sh h0 h1
  rcases Nat.lt_or_ge k 16 with h2 | h2
  · exact getLsbD_eq_of_extract_eq rd h1 h2
  rcases Nat.lt_or_ge k 21 with h3 | h3
  · exact getLsbD_eq_of_extract_eq rt h2 h3
  rcases Nat.lt_or_ge k 26 with h4 | h4
  · exact getLsbD_eq_of_extract_eq rs h3 h4
  · exact getLsbD_eq_of_extract_eq op h4 hk

/-- A mask of an opcode table row asks its question of each field. -/
theorem and_eq_iff_fields (w mask bits : Word) : w &&& mask = bits ↔
    opcodeField w &&& mask.extractLsb' 26 6 = bits.extractLsb' 26 6 ∧
    rsField w &&& mask.extractLsb' 21 5 = bits.extractLsb' 21 5 ∧
    rtField w &&& mask.extractLsb' 16 5 = bits.extractLsb' 16 5 ∧
    rdField w &&& mask.extractLsb' 11 5 = bits.extractLsb' 11 5 ∧
    shamtField w &&& mask.extractLsb' 6 5 = bits.extractLsb' 6 5 ∧
    funcField w &&& mask.extractLsb' 0 6 = bits.extractLsb' 0 6 := by
  have field : ∀ lo n, (w &&& mask).extractLsb' lo n = w.extractLsb' lo n &&& mask.extractLsb' lo n :=
    fun _ _ => BitVec.extractLsb'_and
  constructor
  · rintro rfl
    exact ⟨(field 26 6).symm, (field 21 5).symm, (field 16 5).symm, (field 11 5).symm, (field 6 5).symm, (field 0 6).symm⟩
  · rintro ⟨op, rs, rt, rd, sh, fn⟩
    exact eq_of_fields ((field 26 6).trans op) ((field 21 5).trans rs) ((field 16 5).trans rt) ((field 11 5).trans rd)
      ((field 6 5).trans sh) ((field 0 6).trans fn)

/-- A mask that covers a field. -/
theorem and_31 (x : BitVec 5) : x &&& 31#5 = x := BitVec.and_allOnes

theorem and_63 (x : BitVec 6) : x &&& 63#6 = x := BitVec.and_allOnes

/-- A run of bits is zero exactly if each of its two parts is. -/
theorem extract_eq_zero_iff (w : Word) (lo m n : Nat) :
    w.extractLsb' lo (m + n) = 0#(m + n) ↔ w.extractLsb' lo m = 0#m ∧ w.extractLsb' (lo + m) n = 0#n := by
  have bits : ∀ lo n, w.extractLsb' lo n = 0#n ↔ ∀ k < n, w.getLsbD (lo + k) = false := fun lo n =>
    ⟨fun h k hk => by simpa [hk] using congrArg (fun x => x.getLsbD k) h,
      fun h => BitVec.eq_of_getLsbD_eq fun k hk => by simp [hk, h k hk]⟩
  simp only [bits]
  refine ⟨fun h => ⟨fun k hk => h k (by omega), fun k hk => ?_⟩, fun ⟨low, high⟩ k hk => ?_⟩
  · rw [Nat.add_assoc]; exact h (m + k) (by omega)
  · rcases Nat.lt_or_ge k m with h | h
    · exact low k h
    · simpa [show lo + m + (k - m) = lo + k by omega] using high (k - m) (by omega)

/-- Bits 25:6 are rs, rt, rd and shamt. -/
theorem bits25to6_eq_zero_iff (w : Word) : w.extractLsb' 6 20 = 0#20 ↔
    shamtField w = 0#5 ∧ rdField w = 0#5 ∧ rtField w = 0#5 ∧ rsField w = 0#5 :=
  (extract_eq_zero_iff w 6 5 15).trans (and_congr_right' ((extract_eq_zero_iff w 11 5 10).trans
    (and_congr_right' (extract_eq_zero_iff w 16 5 5))))

/-- Bits 10:0 are shamt and func. -/
theorem bits10to0_eq_zero_iff (w : Word) : w.extractLsb' 0 11 = 0#11 ↔ funcField w = 0#6 ∧ shamtField w = 0#5 :=
  extract_eq_zero_iff w 0 6 5

/-- Bit 25 is the highest of rs. -/
theorem getElem_25 (w : Word) : w[25] = (rsField w).getLsbD 4 := by
  simp [rsField]

/-- The mask of that bit. -/
theorem and_16_eq_16_iff {rs : Reg} : rs &&& 16#5 = 16#5 ↔ rs.getLsbD 4 = true := by
  revert rs
  decide

/-- Bit 25 set and bits 24:6 zero: rs is 0x10, and rt, rd and shamt are zero. -/
theorem bits24to6_eq_zero_iff {w : Word} (bit25 : (rsField w).getLsbD 4 = true) : w.extractLsb' 6 19 = 0#19 ↔
    shamtField w = 0#5 ∧ rdField w = 0#5 ∧ rtField w = 0#5 ∧ rsField w = 0x10#5 := by
  refine (extract_eq_zero_iff w 6 5 14).trans (and_congr_right' ((extract_eq_zero_iff w 11 5 9).trans
    (and_congr_right' ((extract_eq_zero_iff w 16 5 4).trans (and_congr_right' ?_)))))
  have low : w.extractLsb' 21 4 = (rsField w).setWidth 4 :=
    BitVec.eq_of_getLsbD_eq fun k hk => by simp [rsField, hk, show k < 5 by omega]
  show w.extractLsb' 21 4 = 0#4 ↔ _
  rw [low]
  generalize rsField w = rs at bit25
  revert rs
  decide

theorem eq_rType {w : Word} (op : opcodeField w = 0#6) :
    rType (rsField w) (rtField w) (rdField w) (shamtField w) (funcField w) = w :=
  eq_of_fields (by simp [op]) (by simp) (by simp) (by simp) (by simp) (by simp)

theorem eq_iType (w : Word) : iType (opcodeField w) (rsField w) (rtField w) (immField w) = w := by
  refine BitVec.eq_of_getLsbD_eq fun k hk => ?_
  rw [getLsbD_iType]
  split_ifs with h0 h1 h2
  · simp [immField, h0]
  · simp [rtField, show k - 16 < 5 by omega, show 16 + (k - 16) = k by omega]
  · simp [rsField, show k - 21 < 5 by omega, show 21 + (k - 21) = k by omega]
  · simp [opcodeField, show k - 26 < 6 by omega, show 26 + (k - 26) = k by omega]

theorem eq_jType (w : Word) : jType (opcodeField w) (targetField w) = w := by
  refine BitVec.eq_of_getLsbD_eq fun k hk => ?_
  rw [getLsbD_jType]
  split_ifs with h
  · simp [targetField, h]
  · simp [opcodeField, show k - 26 < 6 by omega, show 26 + (k - 26) = k by omega]

theorem eq_cp0Type {w : Word} (op : opcodeField w = 0x10#6) (low : w.extractLsb' 0 11 = 0#11) :
    cp0Type (rsField w) (rtField w) (rdField w) (selField w) = w := by
  have sel : selField w = 0#3 := ((extract_eq_zero_iff w 0 3 8).1 low).1
  have fields := (bits10to0_eq_zero_iff _).1 (low11_cp0Type (rsField w) (rtField w) (rdField w))
  have fields' := (bits10to0_eq_zero_iff w).1 low
  rw [sel]
  exact eq_of_fields (by simp [op]) (by simp) (by simp) (by simp) (fields.2.trans fields'.2.symm)
    (fields.1.trans fields'.1.symm)

end Sys2Proof
end

section
/-! The decoder against the encoder and against the opcode table (30_encoding.md R80 to R85). -/

namespace Sys2Proof

/-! The two checks of the decoder and of a row. -/

theorem ifUnusedZero_eq_ok {c : Config} {zero : Bool} {i j : Instr} :
    ifUnusedZero c zero j = .ok i ↔ (c.strictDecode = true → zero = true) ∧ j = i := by
  unfold ifUnusedZero
  cases c.strictDecode <;> cases zero <;> simp

theorem ifHist_eq_ok {c : Config} {r : Except Reject Instr} {i : Instr} :
    ifHist c r = .ok i ↔ c.histInstrs = true ∧ r = .ok i := by
  unfold ifHist
  split <;> simp_all

theorem admits_iff {r : OpcodeRow} {c : Config} {w : Word} : r.admits c w = true ↔
    w &&& r.mask = r.bits ∧ (c.strictDecode = true → w &&& r.strictMask = r.bits) ∧
      (r.hist = true → c.histInstrs = true) := by
  unfold OpcodeRow.admits OpcodeRow.matches
  cases c.strictDecode <;> cases r.hist <;> simp [and_assoc]

/-- The row of a mnemonic admits the word. -/
def HasRow (c : Config) (w : Word) (mnemonic : String) : Prop :=
  ∃ r ∈ opcodeTable, r.admits c w = true ∧ r.mnemonic = mnemonic

theorem hasRow_of_find {c : Config} {w : Word} {mnemonic : String} {r : OpcodeRow}
    (found : opcodeTable.find? (fun r => r.mnemonic = mnemonic) = some r) (admits : r.admits c w = true) :
    HasRow c w mnemonic :=
  ⟨r, List.mem_of_find?_eq_some found, admits, by simpa using List.find?_some found⟩

/-- What is said of an instruction the decoder gives for a word. -/
structure Decoded (c : Config) (w : Word) (i : Instr) : Prop where
  canonical : c.strictDecode = true → encode i = w
  row : HasRow c w i.mnemonic

/-- One branch of an opcode map. -/
theorem ite_eq_ok {p : Prop} [Decidable p] {a b : Except Reject Instr} {i : Instr} :
    (if p then a else b) = .ok i ↔ (p ∧ a = .ok i) ∨ (¬p ∧ b = .ok i) := by
  split <;> simp_all

theorem ifHist_ifUnusedZero_eq_ok {c : Config} {zero : Bool} {i j : Instr} :
    ifHist c (ifUnusedZero c zero j) = .ok i ↔
      ((c.strictDecode = true → zero = true) ∧ c.histInstrs = true) ∧ j = i := by
  rw [ifHist_eq_ok, ifUnusedZero_eq_ok]; tauto

theorem decodeSpecial_ok {c : Config} {w : Word} {i : Instr} (op : opcodeField w = 0x00#6)
    (h : decodeSpecial c w = .ok i) : Decoded c w i := by
  simp only [decodeSpecial, ite_eq_ok, ifHist_ifUnusedZero_eq_ok, ifUnusedZero_eq_ok, bits25to6_eq_zero_iff,
    Bool.and_eq_true, beq_iff_eq, reduceCtorEq, and_false] at h
  repeat' rcases h with ⟨fn, checks, rfl⟩ | ⟨-, h⟩
  all_goals
    refine ⟨fun strict => Eq.trans ?_ (eq_rType op), hasRow_of_find rfl ?_⟩
    · simp [encode, fn, checks, strict]
    · simpa [admits_iff, and_eq_iff_fields, and_31, and_63, op, fn, and_comm, and_left_comm, and_assoc] using checks

theorem decodeRegimm_ok {c : Config} {w : Word} {i : Instr} (op : opcodeField w = 0x01#6)
    (h : decodeRegimm c w = .ok i) : Decoded c w i := by
  simp only [decodeRegimm, ite_eq_ok, ifHist_eq_ok, Except.ok.injEq, reduceCtorEq, and_false] at h
  have word := eq_iType w
  obtain ⟨rt, rfl⟩ | ⟨-, ⟨rt, rfl⟩ | ⟨-, ⟨rt, hist, rfl⟩ | ⟨-, ⟨rt, hist, rfl⟩ | ⟨-, h⟩⟩⟩⟩ := h
  all_goals
    refine ⟨fun _ => Eq.trans ?_ word, hasRow_of_find rfl ?_⟩
    · simp [encode, op, rt]
    · simp [admits_iff, and_eq_iff_fields, and_31, and_63, *]

theorem decodeCop0_ok {c : Config} {w : Word} {i : Instr} (op : opcodeField w = 0x10#6)
    (h : decodeCop0 c w = .ok i) : Decoded c w i := by
  simp only [decodeCop0, ite_eq_ok, ifUnusedZero_eq_ok, beq_iff_eq, reduceCtorEq, and_false, or_false] at h
  obtain ⟨bit25, fn, zero, rfl⟩ | ⟨-, ⟨rs, zero, rfl⟩ | ⟨-, rs, zero, rfl⟩⟩ := h
  · replace bit25 : (rsField w).getLsbD 4 = true := (getElem_25 w).symm.trans bit25
    refine ⟨fun strict => ?_, hasRow_of_find rfl ?_⟩
    · obtain ⟨sh, rd, rt, rs⟩ := (bits24to6_eq_zero_iff bit25).1 (zero strict)
      exact eq_of_fields (op ▸ rfl) (rs ▸ rfl) (rt ▸ rfl) (rd ▸ rfl) (sh ▸ rfl) (fn ▸ rfl)
    · rw [bits24to6_eq_zero_iff bit25] at zero
      have high : rsField w &&& 16#5 = 16#5 := and_16_eq_16_iff.2 bit25
      simpa [admits_iff, and_eq_iff_fields, and_31, and_63, op, fn, high, and_comm, and_left_comm, and_assoc] using zero
  all_goals
    refine ⟨fun strict => Eq.trans ?_ (eq_cp0Type op (zero strict)), hasRow_of_find rfl ?_⟩
    · simp [encode, rs]
    · simpa [admits_iff, and_eq_iff_fields, and_31, and_63, op, rs, bits10to0_eq_zero_iff, and_comm] using zero

theorem decodeWord_ok {c : Config} {w : Word} {i : Instr} (h : decodeWord c w = .ok i) : Decoded c w i := by
  by_cases special : opcodeField w = 0x00#6
  · exact decodeSpecial_ok special (by simpa [decodeWord, special] using h)
  by_cases regimm : opcodeField w = 0x01#6
  · exact decodeRegimm_ok regimm (by simpa [decodeWord, regimm] using h)
  by_cases cop0 : opcodeField w = 0x10#6
  · exact decodeCop0_ok cop0 (by simpa [decodeWord, cop0] using h)
  simp only [decodeWord, special, regimm, cop0, if_false, ite_eq_ok, ifUnusedZero_eq_ok, Except.ok.injEq, beq_iff_eq,
    reduceCtorEq, and_false] at h
  obtain ⟨op, rfl⟩ | ⟨-, ⟨op, rfl⟩ | ⟨-, h⟩⟩ := h
  · exact ⟨fun _ => Eq.trans (by rw [op]; rfl) (eq_jType w),
      hasRow_of_find rfl (by simp [admits_iff, and_eq_iff_fields, and_63, op])⟩
  · exact ⟨fun _ => Eq.trans (by rw [op]; rfl) (eq_jType w),
      hasRow_of_find rfl (by simp [admits_iff, and_eq_iff_fields, and_63, op])⟩
  obtain ⟨op, rfl⟩ | ⟨-, ⟨op, rfl⟩ | ⟨-, ⟨op, zero, rfl⟩ | ⟨-, ⟨op, zero, rfl⟩ | ⟨-, ⟨op, rfl⟩ | ⟨-, ⟨op, rfl⟩ |
    ⟨-, ⟨op, rfl⟩ | ⟨-, ⟨op, rfl⟩ | ⟨-, ⟨op, rfl⟩ | ⟨-, ⟨op, rfl⟩ | ⟨-, ⟨op, rfl⟩ | ⟨-, ⟨op, zero, rfl⟩ |
    ⟨-, ⟨op, rfl⟩ | ⟨-, ⟨op, rfl⟩ | ⟨-, ⟨op, rfl⟩ | ⟨-, ⟨op, rfl⟩ | ⟨-, ⟨op, rfl⟩ | ⟨-, ⟨op, rfl⟩ | ⟨-, ⟨op, rfl⟩ |
    ⟨-, ⟨op, rfl⟩ | ⟨-, ⟨⟩⟩⟩⟩⟩⟩⟩⟩⟩⟩⟩⟩⟩⟩⟩⟩⟩⟩⟩⟩⟩ := h
  all_goals
    refine ⟨fun strict => Eq.trans ?_ (eq_iType w), hasRow_of_find rfl ?_⟩
    · simp_all [encode]
    · simp_all [admits_iff, and_eq_iff_fields, and_63]

/-! Each row's instruction. -/

theorem decodeWord_special {c : Config} {w : Word} (op : opcodeField w = 0x00#6) : decodeWord c w = decodeSpecial c w := by
  simp [decodeWord, op]

theorem decodeWord_regimm {c : Config} {w : Word} (op : opcodeField w = 0x01#6) : decodeWord c w = decodeRegimm c w := by
  simp [decodeWord, op]

theorem decodeWord_cop0 {c : Config} {w : Word} (op : opcodeField w = 0x10#6) : decodeWord c w = decodeCop0 c w := by
  simp [decodeWord, op]

/-- The decoder gives a word that the row admits the instruction of the row. -/
def RowDecodes (c : Config) (w : Word) (r : OpcodeRow) : Prop :=
  r.admits c w = true → ∃ i, decodeWord c w = .ok i ∧ i.mnemonic = r.mnemonic

section
variable (c : Config) (w : Word)

/-- The rows that the opcode, and for opcode 1 rt, select (30_encoding.md R80, R82). -/
theorem iFormatRows_decode : ∀ r ∈ loadStoreRows ++ aluIRows ++ branchRows, RowDecodes c w r := by
  simp only [loadStoreRows, aluIRows, branchRows, List.forall_mem_append, List.forall_mem_cons, List.not_mem_nil,
    false_imp_iff, implies_true, and_true, RowDecodes, admits_iff, and_eq_iff_fields]
  and_intros
  all_goals
    rintro ⟨mask, strict, -⟩
    simp [and_31, and_63] at mask strict
    simp +contextual [decodeWord, decodeRegimm, ifUnusedZero_eq_ok, mask, strict, Instr.mnemonic]

/-- The rows of register instructions, which func selects (30_encoding.md R81). -/
theorem rFormatRows_decode : ∀ r ∈ aluRRows ++ mulDivRows ++ hiLoRows ++ trapRows, RowDecodes c w r := by
  simp only [aluRRows, mulDivRows, hiLoRows, trapRows, List.forall_mem_append, List.forall_mem_cons, List.not_mem_nil,
    false_imp_iff, implies_true, and_true, RowDecodes, admits_iff, and_eq_iff_fields]
  and_intros
  all_goals
    rintro ⟨mask, strict, -⟩
    simp [and_31, and_63] at mask strict
    simp +contextual [decodeWord_special, decodeSpecial, ifUnusedZero_eq_ok, bits25to6_eq_zero_iff, mask, strict,
      Instr.mnemonic]

/-- The rows of the jumps and of the historical instructions, of either format. -/
theorem jumpAndHistoricalRows_decode : ∀ r ∈ jumpRows ++ historicalRows, RowDecodes c w r := by
  simp only [jumpRows, historicalRows, List.forall_mem_append, List.forall_mem_cons, List.not_mem_nil,
    false_imp_iff, implies_true, and_true, RowDecodes, admits_iff, and_eq_iff_fields]
  and_intros
  all_goals
    rintro ⟨mask, strict, hist⟩
    simp [and_31, and_63] at mask strict hist
    simp +contextual [decodeWord, decodeSpecial, decodeRegimm, ifHist_eq_ok, ifUnusedZero_eq_ok, mask, strict, hist,
      Instr.mnemonic]

theorem cp0Rows_decode : ∀ r ∈ cp0Rows, RowDecodes c w r := by
  simp only [cp0Rows, List.forall_mem_cons, List.not_mem_nil, false_imp_iff, implies_true, and_true, RowDecodes,
    admits_iff, and_eq_iff_fields]
  and_intros
  all_goals
    rintro ⟨mask, strict, -⟩
    simp [and_31, and_63, and_16_eq_16_iff] at mask strict
    simp +contextual [decodeWord_cop0, decodeCop0, ifUnusedZero_eq_ok, getElem_25, bits24to6_eq_zero_iff,
      bits10to0_eq_zero_iff, mask, strict, Instr.mnemonic]

theorem opcodeTable_decodes : ∀ r ∈ opcodeTable, RowDecodes c w r := by
  have iFormat := iFormatRows_decode c w
  have rFormat := rFormatRows_decode c w
  have jumpAndHistorical := jumpAndHistoricalRows_decode c w
  have cp0 := cp0Rows_decode c w
  simp only [opcodeTable, List.forall_mem_append] at *
  tauto

end

/-- Settles O2. -/
theorem strictWordsAreCanonical : Obligations.StrictWordsAreCanonical :=
  fun _ _ _ strict decodes => (decodeWord_ok decodes).canonical strict

/-- Settles O3: along the branches of the decoder one way, along the rows of the table the other. -/
theorem decoderAgreesWithOpcodeTable : Obligations.DecoderAgreesWithOpcodeTable :=
  fun c w => ⟨fun _ decodes => (decodeWord_ok decodes).row, opcodeTable_decodes c w⟩

/-- Two rows of the table that differ have a bit that both masks ask for and that they want different. -/
theorem opcodeTable_disjoint : ∀ r₁ ∈ opcodeTable, ∀ r₂ ∈ opcodeTable,
    r₁ = r₂ ∨ r₁.bits &&& r₂.mask ≠ r₂.bits &&& r₁.mask := by
  decide +kernel

/-- Settles O4. -/
theorem atMostOneRowMatchesAWord : Obligations.AtMostOneRowMatchesAWord := by
  intro w r₁ r₂ mem₁ mem₂ matches₁ matches₂
  rw [OpcodeRow.matches, beq_iff_eq] at matches₁ matches₂
  refine (opcodeTable_disjoint r₁ mem₁ r₂ mem₂).resolve_right (not_not.2 ?_)
  rw [← matches₁, ← matches₂, BitVec.and_assoc, BitVec.and_assoc, BitVec.and_comm r₁.mask]

/-- The canonical word of eret, the one word of no format of operands. -/
theorem decodeWord_eret (c : Config) : decodeWord c 0x42000018#32 = .ok .eret :=
  (ifUnusedZero_eq_ok (zero := true)).2 ⟨fun _ => rfl, rfl⟩

theorem decodeWord_encode {c : Config} : ∀ i, Instr.histOk c i = true → Instr.selOk c i = true →
    decodeWord c (encode i) = .ok i
  | .sll .., _, _ | .srl .., _, _ | .sra .., _, _ | .jr .., _, _ | .jalr .., _, _ | .syscall, _, _ | .brk, _, _
  | .mfhi .., _, _ | .mthi .., _, _ | .mflo .., _, _ | .mtlo .., _, _ | .mult .., _, _ | .multu .., _, _
  | .div .., _, _ | .divu .., _, _ | .add .., _, _ | .addu .., _, _ | .sub .., _, _ | .subu .., _, _ | .and .., _, _
  | .or .., _, _ | .xor .., _, _ | .nor .., _, _ | .slt .., _, _ | .sltu .., _, _ => by
    simp [encode, decodeWord_special, decodeSpecial, ifUnusedZero_eq_ok, bits25to6_eq_zero_iff]
  | .sllv .., hist, _ | .srlv .., hist, _ | .srav .., hist, _ => by
    simpa [encode, decodeWord_special, decodeSpecial, ifHist_eq_ok, ifUnusedZero_eq_ok, Instr.histOk, Instr.isHist] using hist
  | .bltz .., _, _ | .bgez .., _, _ => by simp [encode, decodeWord_regimm, decodeRegimm]
  | .bltzal .., hist, _ | .bgezal .., hist, _ => by
    simpa [encode, decodeWord_regimm, decodeRegimm, ifHist_eq_ok, Instr.histOk, Instr.isHist] using hist
  | .j .., _, _ | .jal .., _, _ | .beq .., _, _ | .bne .., _, _ | .blez .., _, _ | .bgtz .., _, _ | .addi .., _, _
  | .addiu .., _, _ | .slti .., _, _ | .sltiu .., _, _ | .andi .., _, _ | .ori .., _, _ | .xori .., _, _ | .lui .., _, _
  | .lb .., _, _ | .lh .., _, _ | .lw .., _, _ | .lbu .., _, _ | .lhu .., _, _ | .sb .., _, _ | .sh .., _, _
  | .sw .., _, _ => by
    simp [encode, decodeWord, ifUnusedZero_eq_ok]
  | .eret, _, _ => decodeWord_eret c
  | .mfc0 rt rd sel, _, ok | .mtc0 rt rd sel, _, ok => by
    have low : c.strictDecode = true → ∀ rs, (cp0Type rs rt rd sel).extractLsb' 0 11 = 0#11 := fun strict rs => by
      obtain rfl : sel = 0#3 := by simpa [Instr.selOk, Instr.sel, strict] using ok
      exact low11_cp0Type rs rt rd
    simp +contextual [encode, decodeWord_cop0, decodeCop0, ifUnusedZero_eq_ok, getElem_25, low]

/-- Settles O5. -/
theorem exampleWordsDecode : Obligations.ExampleWordsDecode :=
  ⟨rfl, rfl, rfl, rfl, rfl, rfl, rfl⟩

/-- Settles O1. -/
theorem decodeOfEncodeIsTheInstruction : Obligations.DecodeOfEncodeIsTheInstruction := fun _ i wf =>
  decodeWord_encode i (Bool.and_eq_true_iff.1 wf).1 (Bool.and_eq_true_iff.1 wf).2

end Sys2Proof
end

section
/-! Bytes of a word, and what a store leaves to be read (20_memory.md R43, R44, R53). -/

namespace Sys2Proof.Machine

theorem aligned_iff {w : Width} {ea : Word} : aligned w ea = true ↔ ea.toNat % w.bytes = 0 := by
  simp [aligned]

theorem not_aligned_iff {w : Width} {ea : Word} : aligned w ea = false ↔ ea.toNat % w.bytes ≠ 0 := by
  simp [aligned]

/-- Taking a word's low bytes apart and putting them together keeps their bits. -/
theorem getLsbD_wordLE_bytesLE (n : Nat) (v : Word) {k : Nat} (hk : k < 32) :
    (wordLE (bytesLE n v)).getLsbD k = (decide (k < 8 * n) && v.getLsbD k) := by
  induction n generalizing v k with
  | zero => simp [bytesLE, wordLE]
  | succ n ih =>
    simp only [bytesLE, wordLE, BitVec.getLsbD_or, BitVec.getLsbD_shiftLeft, BitVec.getLsbD_setWidth, hk]
    rcases Nat.lt_or_ge k 8 with h | h
    · simp [h, show k < 8 * (n + 1) by omega]
    · rw [ih _ (by omega), BitVec.getLsbD_ushiftRight, show 8 + (k - 8) = k by omega]
      simp [show ¬k < 8 by omega, show (k - 8 < 8 * n) = (k < 8 * (n + 1)) by simp; omega]

theorem wordOfBytes_bytesOfWord (e : Endian) (n : Nat) (v : Word) :
    wordOfBytes e (bytesOfWord e n v) = wordLE (bytesLE n v) := by
  cases e <;> simp [wordOfBytes, bytesOfWord]

theorem wordLE_bytesLE_word (v : Word) : wordLE (bytesLE 4 v) = v :=
  BitVec.eq_of_getLsbD_eq fun k hk => by
    rw [getLsbD_wordLE_bytesLE 4 v hk, decide_eq_true (by omega), Bool.true_and]

theorem wordLE_bytesLE_half (v : Word) : wordLE (bytesLE 2 v) = (v.extractLsb' 0 16).setWidth 32 :=
  BitVec.eq_of_getLsbD_eq fun k hk => by
    rw [getLsbD_wordLE_bytesLE 2 v hk]; simp [hk]

theorem wordLE_bytesLE_byte (v : Word) : wordLE (bytesLE 1 v) = (v.extractLsb' 0 8).setWidth 32 :=
  BitVec.eq_of_getLsbD_eq fun k hk => by
    rw [getLsbD_wordLE_bytesLE 1 v hk]; simp [hk]

/-- Reading back where an aligned store has just written gives the bytes it wrote. -/
theorem readBytes_storeBytes {s : State} {w : Width} {ea : Word} (v : Word) (wf : Memory.wf s.mem = true)
    (al : aligned w ea = true) :
    Memory.readBytes (s.storeBytes w ea v).mem ea w.bytes = bytesOfWord s.cfg.endian w.bytes v :=
  List.ext_getElem (by simp) fun _ hk hk' => by
    rw [Memory.getElem_readBytes (aligned_no_wrap al) hk, storeBytes_inside wf al hk']

/-- Shortening a value to the width it was extended from. -/
theorem setWidth_setWidth_self {m n : Nat} (h : m ≤ n) (v : BitVec m) : (v.setWidth n).setWidth m = v := by
  rw [BitVec.setWidth_setWidth_of_le _ h, BitVec.setWidth_eq]

section
variable {s : State} {ea : Word} (v : Word) (wf : Memory.wf s.mem = true)
include wf

/-- A stored word is there. -/
theorem wordAt_storeBytes (al : aligned .word ea = true) :
    wordAt s.cfg.endian (s.storeBytes .word ea v).mem ea.toNat = v := by
  have bytes := wordOfBytes_word (s := s.storeBytes .word ea v) (aligned_word_no_wrap al)
  rw [State.storeBytes_cfg, show Memory.readBytes _ ea 4 = _ from readBytes_storeBytes v wf al,
    wordOfBytes_bytesOfWord, show wordLE (bytesLE Width.word.bytes v) = _ from wordLE_bytesLE_word v] at bytes
  exact bytes.symm

/-- A stored halfword is there. -/
theorem halfAt_storeBytes (al : aligned .half ea = true) :
    halfAt s.cfg.endian (s.storeBytes .half ea v).mem ea.toNat = v.extractLsb' 0 16 := by
  have bytes := wordOfBytes_half (s := s.storeBytes .half ea v) (aligned_half_no_wrap al)
  rw [State.storeBytes_cfg, show Memory.readBytes _ ea 2 = _ from readBytes_storeBytes v wf al,
    wordOfBytes_bytesOfWord, show wordLE (bytesLE Width.half.bytes v) = _ from wordLE_bytesLE_half v] at bytes
  rw [← setWidth_setWidth_self (n := 32) (by decide) (halfAt _ _ _), ← bytes,
    setWidth_setWidth_self (by decide)]

/-- A stored byte is there. -/
theorem read_storeBytes_byte :
    Memory.read (s.storeBytes .byte ea v).mem ea.toNat = v.extractLsb' 0 8 := by
  have al : aligned .byte ea = true := aligned_iff.2 (Nat.mod_one _)
  have bytes := wordOfBytes_byte (s.storeBytes .byte ea v) ea
  rw [State.storeBytes_cfg, show Memory.readBytes _ ea 1 = _ from readBytes_storeBytes v wf al,
    wordOfBytes_bytesOfWord, show wordLE (bytesLE Width.byte.bytes v) = _ from wordLE_bytesLE_byte v] at bytes
  rw [← setWidth_setWidth_self (n := 32) (by decide) (Memory.read _ _), ← bytes,
    setWidth_setWidth_self (by decide)]

/-- On a little-endian machine byte `k` of a stored value lies `k` bytes up. -/
theorem read_storeBytes_little {w : Width} (little : s.cfg.endian = .little) (al : aligned w ea = true) {k : Nat}
    (hk : k < w.bytes) : Memory.read (s.storeBytes w ea v).mem (ea.toNat + k) = v.extractLsb' (8 * k) 8 := by
  rw [storeBytes_inside wf al (by simpa using hk)]
  simp only [bytesOfWord, little, getElem_bytesLE]
  exact BitVec.eq_of_getLsbD_eq fun j hj => by simp [hj]

end

/-- Two neighbouring bytes of a word are a halfword of it. -/
theorem extract_append_extract (v : Word) (lo : Nat) :
    (v.extractLsb' (lo + 8) 8 ++ v.extractLsb' lo 8 : BitVec 16) = v.extractLsb' lo 16 := by
  refine BitVec.eq_of_getLsbD_eq fun k hk => ?_
  rw [getLsbD_twoBytes]
  split_ifs with h
  · simp [h, hk]
  · simp [hk, show k - 8 < 8 by omega, show lo + 8 + (k - 8) = lo + k by omega]

/-- An access inside an aligned one lies at the addresses it seems to. -/
theorem toNat_add_ofNat {w : Width} {ea : Word} (al : aligned w ea = true) {k : Nat} (hk : k < w.bytes) :
    (ea + BitVec.ofNat 32 k).toNat = ea.toNat + k := by
  have := aligned_no_wrap al
  rw [BitVec.toNat_add, BitVec.toNat_ofNat]
  omega

/-- Settles O8. -/
theorem littleEndianByteOrder : Obligations.LittleEndianByteOrder := by
  intro s a v little
  refine ⟨fun h => ?_, fun h => ?_, fun h => ?_, fun h => ?_, fun w t wf h i hi => ?_⟩
  · obtain ⟨-, -, rfl⟩ := memRead_next.1 h
    exact wordOfBytes_byte s a
  · obtain ⟨al, -, rfl⟩ := memRead_next.1 h
    simpa [little, halfAt, Width.bytes] using wordOfBytes_half (s := s) (aligned_half_no_wrap al)
  · obtain ⟨al, -, rfl⟩ := memRead_next.1 h
    simpa [little, Width.bytes] using wordOfBytes_word (s := s) (aligned_word_no_wrap al)
  · obtain ⟨al, -, -, rfl⟩ := memFetch_next.1 h
    simpa [little] using wordOfBytes_word (s := s) (aligned_word_no_wrap al)
  · obtain ⟨al, -, rfl⟩ := memWrite_next.1 h
    exact read_storeBytes_little v wf little al hi

/-- Settles O9. -/
theorem mixedWidthAccessesSeeTheirBytes : Obligations.MixedWidthAccessesSeeTheirBytes := by
  intro s t a v little wf
  refine ⟨fun h plain => ?_, fun h b => ?_, fun h b ne0 ne1 => ?_⟩
  · obtain ⟨al, -, rfl⟩ := memWrite_next.1 h
    have byte : ∀ k < 4, Memory.read (s.storeBytes .word a v).mem (a.toNat + k) = v.extractLsb' (8 * k) 8 :=
      fun k hk => read_storeBytes_little v wf little al hk
    have at' : ∀ k < 4, (a + BitVec.ofNat 32 k).toNat = a.toNat + k := fun k hk => toNat_add_ofNat al hk
    have half : ∀ k, k = 0 ∨ k = 2 → (s.storeBytes .word a v).memRead .half (a + BitVec.ofNat 32 k) =
        .next ((v.extractLsb' (8 * k) 16).setWidth 32) := fun k hk => by
      have hk4 : k < 4 := by omega
      have al_half : aligned .half (a + BitVec.ofNat 32 k) = true := by
        rw [aligned_iff] at al ⊢
        simp only [Width.bytes] at al ⊢
        rw [at' k hk4]
        omega
      refine memRead_next.2 ⟨al_half, fun j hj => ?_, ?_⟩
      · simp only [Width.bytes] at hj
        rw [at' k hk4, Nat.add_assoc]
        exact plain (k + j) (by omega)
      · refine ((wordOfBytes_half (aligned_half_no_wrap al_half)).trans ?_).symm
        simp only [State.storeBytes_cfg, little, halfAt, at' k hk4]
        rw [Nat.add_assoc, byte k hk4, byte (k + 1) (by omega), Nat.mul_add, extract_append_extract]
    refine ⟨fun k hk => memRead_next.2 ⟨aligned_iff.2 (Nat.mod_one _), fun j hj => ?_, ?_⟩, ?_, half 2 (.inr rfl)⟩
    · obtain rfl : j = 0 := by simpa [Width.bytes] using hj
      rw [at' k hk]
      exact plain k hk
    · exact ((wordOfBytes_byte _ _).trans (by rw [at' k hk, byte k hk])).symm
    · simpa using half 0 (.inl rfl)
  · obtain ⟨al, -, rfl⟩ := memWrite_next.1 h
    split_ifs with eq
    · rw [eq, read_storeBytes_byte v wf]
    · exact (storeBytes_frame wf al).outside b fun k hk => by
        obtain rfl : k = 0 := by simpa [Width.bytes] using hk
        exact eq
  · obtain ⟨al, -, rfl⟩ := memWrite_next.1 h
    refine (storeBytes_frame wf al).outside b fun k hk => ?_
    simp only [Width.bytes] at hk
    interval_cases k
    · exact ne0
    · exact ne1

/-! The canonical form (log 3). -/

/-- The first listed byte is read, and differs from an unlisted one. -/
theorem Memory.read_head_ne {lo a : Nat} {v : Byte} {rest : Memory} (wf : Memory.wfFrom lo ((a, v) :: rest) = true) :
    Memory.read ((a, v) :: rest) a = v ∧ v ≠ unlistedByte := by
  simp only [Memory.wfFrom, Bool.and_eq_true, Bool.not_eq_true', beq_eq_false_iff_ne] at wf
  exact ⟨if_pos rfl, wf.1.2⟩

theorem Memory.wfFrom_tail {lo a : Nat} {v : Byte} {rest : Memory} (wf : Memory.wfFrom lo ((a, v) :: rest) = true) :
    lo ≤ a ∧ Memory.wfFrom (a + 1) rest = true := by
  simp only [Memory.wfFrom, Bool.and_eq_true, decide_eq_true_eq] at wf
  exact ⟨wf.1.1.1, wf.2⟩

theorem Memory.eq_of_read_eq {lo₁ lo₂ : Nat} {m₁ m₂ : Memory} (wf₁ : Memory.wfFrom lo₁ m₁ = true)
    (wf₂ : Memory.wfFrom lo₂ m₂ = true) (same : ∀ a, Memory.read m₁ a = Memory.read m₂ a) : m₁ = m₂ := by
  induction m₁ generalizing lo₁ lo₂ m₂ with
  | nil =>
    cases m₂ with
    | nil => rfl
    | cons c rest =>
      obtain ⟨head, ne⟩ := Memory.read_head_ne wf₂
      exact absurd (head.symm.trans (same c.1).symm) ne
  | cons c₁ rest₁ ih =>
    obtain ⟨a, v⟩ := c₁
    obtain ⟨head₁, ne₁⟩ := Memory.read_head_ne wf₁
    cases m₂ with
    | nil => exact absurd (head₁.symm.trans (same a)) ne₁
    | cons c₂ rest₂ =>
      obtain ⟨b, w⟩ := c₂
      obtain ⟨head₂, ne₂⟩ := Memory.read_head_ne wf₂
      obtain ⟨-, tail₁⟩ := Memory.wfFrom_tail wf₁
      obtain ⟨-, tail₂⟩ := Memory.wfFrom_tail wf₂
      rcases Nat.lt_trichotomy a b with lt | rfl | gt
      · have below : Memory.read ((b, w) :: rest₂) a = unlistedByte := by
          rw [Memory.read, if_neg (by omega)]
          exact Memory.read_below tail₂ (by omega)
        exact absurd (head₁.symm.trans ((same a).trans below)) ne₁
      · obtain rfl : v = w := head₁.symm.trans ((same a).trans head₂)
        rw [ih tail₁ tail₂ fun x => ?_]
        rcases Nat.lt_or_ge a x with lt | ge
        · simpa [Memory.read, show x ≠ a by omega] using same x
        · rw [Memory.read_below tail₁ (by omega), Memory.read_below tail₂ (by omega)]
      · have below : Memory.read ((a, v) :: rest₁) b = unlistedByte := by
          rw [Memory.read, if_neg (by omega)]
          exact Memory.read_below tail₁ (by omega)
        exact absurd (head₂.symm.trans ((same b).symm.trans below)) ne₂

/-- Settles O10. -/
theorem canonicalMemoriesThatReadAlikeAreEqual : Obligations.CanonicalMemoriesThatReadAlikeAreEqual :=
  fun _ _ wf₁ wf₂ same => Memory.eq_of_read_eq wf₁ wf₂ same

end Sys2Proof.Machine
end

section
/-! Loads and stores: one lemma for each way an access can end, then the instructions (40_load_store.md R100 to R108). -/

namespace Sys2Proof.Machine

section
variable {s : State} {w : Width} {rt base : Reg} {off : Imm16}

/-- A load from an aligned place in plain memory changes its register and pc only. -/
theorem finishLoad_frame (ext : Word → Word) (al : (s.effAddr base off).toNat % w.bytes = 0)
    (plain : AllPlain s .load (s.effAddr base off) w.bytes) :
    ∃ t, finishLoad s w ext rt off base = .next t ∧ OnlyGprAndPc s t rt
      (ext (wordOfBytes s.cfg.endian (Memory.readBytes s.mem (s.effAddr base off) w.bytes))) (s.pc + 4#32) := by
  rw [finishLoad, memRead_next.2 ⟨aligned_iff.2 al, plain, rfl⟩, andThen_of_next]
  exact finishGpr_frame s rt _

theorem finishLoad_fault {f : Fault} {ext : Word → Word} (h : s.memRead w (s.effAddr base off) = .fault f) :
    finishLoad s w ext rt off base = .fault f := by
  rw [finishLoad, h, andThen_of_fault]

theorem finishLoad_misaligned {ext : Word → Word} (mis : (s.effAddr base off).toNat % w.bytes ≠ 0) :
    finishLoad s w ext rt off base = .fault .misalignedAccess :=
  finishLoad_fault (memRead_misaligned (not_aligned_iff.2 mis))

theorem finishLoad_unmapped {ext : Word → Word} (al : (s.effAddr base off).toNat % w.bytes = 0)
    (unmapped : SomeUnmapped s .load (s.effAddr base off) w.bytes) :
    finishLoad s w ext rt off base = .fault .unmappedAccess :=
  finishLoad_fault (memRead_unmapped (aligned_iff.2 al) unmapped)

theorem finishLoad_device {ext : Word → Word} (al : (s.effAddr base off).toNat % w.bytes = 0)
    (mapped : ¬SomeUnmapped s .load (s.effAddr base off) w.bytes)
    (device : SomeDevice s .load (s.effAddr base off) w.bytes) :
    finishLoad s w ext rt off base = .refused .deviceAccess := by
  rw [finishLoad, memRead_device (aligned_iff.2 al) mapped device, andThen_of_refused]

/-- A store to an aligned place in plain memory is the store and the advance of pc. -/
theorem finishStore_answers (al : (s.effAddr base off).toNat % w.bytes = 0)
    (plain : AllPlain s .store (s.effAddr base off) w.bytes) :
    finishStore s w rt off base = .next (s.storeBytes w (s.effAddr base off) (s.readGpr rt)).advance := by
  rw [finishStore, memWrite_next.2 ⟨aligned_iff.2 al, plain, rfl⟩, andThen_of_next]

theorem finishStore_fault {f : Fault} (h : s.memWrite w (s.effAddr base off) (s.readGpr rt) = .fault f) :
    finishStore s w rt off base = .fault f := by
  rw [finishStore, h, andThen_of_fault]

theorem finishStore_misaligned (mis : (s.effAddr base off).toNat % w.bytes ≠ 0) :
    finishStore s w rt off base = .fault .misalignedAccess :=
  finishStore_fault (memWrite_misaligned (not_aligned_iff.2 mis))

theorem finishStore_unmapped (al : (s.effAddr base off).toNat % w.bytes = 0)
    (unmapped : SomeUnmapped s .store (s.effAddr base off) w.bytes) :
    finishStore s w rt off base = .fault .unmappedAccess :=
  finishStore_fault (memWrite_unmapped (aligned_iff.2 al) unmapped)

theorem finishStore_readOnly (al : (s.effAddr base off).toNat % w.bytes = 0)
    (mapped : ¬SomeUnmapped s .store (s.effAddr base off) w.bytes)
    (readOnly : SomeReadOnly s (s.effAddr base off) w.bytes) :
    finishStore s w rt off base = .fault .readOnlyStore :=
  finishStore_fault (memWrite_readOnly (aligned_iff.2 al) mapped readOnly)

theorem finishStore_device (al : (s.effAddr base off).toNat % w.bytes = 0)
    (mapped : ¬SomeUnmapped s .store (s.effAddr base off) w.bytes)
    (writable : ¬SomeReadOnly s (s.effAddr base off) w.bytes)
    (device : SomeDevice s .store (s.effAddr base off) w.bytes) :
    finishStore s w rt off base = .refused .deviceAccess := by
  rw [finishStore, memWrite_device (aligned_iff.2 al) mapped writable device, andThen_of_refused]

end

/-! The value each load writes. -/

section
variable {s : State} {rt base : Reg} {off : Imm16}

theorem exec_lw_frame (al : (s.effAddr base off).toNat % 4 = 0) (plain : AllPlain s .load (s.effAddr base off) 4) :
    ∃ t, exec (.lw rt off base) s = .next t ∧
      OnlyGprAndPc s t rt (wordAt s.cfg.endian s.mem (s.effAddr base off).toNat) (s.pc + 4#32) := by
  rw [← wordOfBytes_word (aligned_word_no_wrap (aligned_iff.2 al))]
  exact finishLoad_frame (w := .word) id al plain

/-- A halfword load writes its extension of the halfword at the address. -/
theorem finishLoad_half_frame (ext : BitVec 16 → Word) (al : (s.effAddr base off).toNat % 2 = 0)
    (plain : AllPlain s .load (s.effAddr base off) 2) :
    ∃ t, finishLoad s .half (fun v => ext (v.setWidth 16)) rt off base = .next t ∧
      OnlyGprAndPc s t rt (ext (halfAt s.cfg.endian s.mem (s.effAddr base off).toNat)) (s.pc + 4#32) := by
  have read := wordOfBytes_half (s := s) (aligned_half_no_wrap (aligned_iff.2 al))
  rw [← setWidth_setWidth_self (n := 32) (by decide) (halfAt _ _ _), ← read]
  exact finishLoad_frame (w := .half) _ al plain

/-- A byte load writes its extension of the byte at the address. -/
theorem finishLoad_byte_frame (ext : Byte → Word) (plain : AllPlain s .load (s.effAddr base off) 1) :
    ∃ t, finishLoad s .byte (fun v => ext (v.setWidth 8)) rt off base = .next t ∧
      OnlyGprAndPc s t rt (ext (Memory.read s.mem (s.effAddr base off).toNat)) (s.pc + 4#32) := by
  rw [← setWidth_setWidth_self (n := 32) (by decide) (Memory.read _ _), ← wordOfBytes_byte s]
  exact finishLoad_frame (w := .byte) _ (Nat.mod_one _) plain

theorem exec_lhu_frame (al : (s.effAddr base off).toNat % 2 = 0) (plain : AllPlain s .load (s.effAddr base off) 2) :
    ∃ t, exec (.lhu rt off base) s = .next t ∧ OnlyGprAndPc s t rt
      (BitVec.ofNat 32 (halfAt s.cfg.endian s.mem (s.effAddr base off).toNat).toNat) (s.pc + 4#32) := by
  rw [BitVec.ofNat_toNat]
  exact finishLoad_half_frame (BitVec.setWidth 32) al plain

theorem exec_lbu_frame (plain : AllPlain s .load (s.effAddr base off) 1) :
    ∃ t, exec (.lbu rt off base) s = .next t ∧ OnlyGprAndPc s t rt
      (BitVec.ofNat 32 (Memory.read s.mem (s.effAddr base off).toNat).toNat) (s.pc + 4#32) := by
  rw [BitVec.ofNat_toNat]
  exact finishLoad_byte_frame (BitVec.setWidth 32) plain

end

/-- Settles O11. -/
theorem loadWord : Obligations.LoadWord := fun rt base off _ =>
  ⟨iType_and_opMask 0x23#6 base rt off, exec_lw_frame, finishLoad_misaligned (w := .word),
    finishLoad_unmapped (w := .word)⟩

/-- Settles O12. -/
theorem loadByteSignedAndUnsigned : Obligations.LoadByteSignedAndUnsigned := fun rt base off _ =>
  ⟨iType_and_opMask 0x20#6 base rt off, iType_and_opMask 0x24#6 base rt off,
    fun plain => ⟨finishLoad_byte_frame (BitVec.signExtend 32) plain, exec_lbu_frame plain⟩,
    fun unmapped => ⟨finishLoad_unmapped (w := .byte) (Nat.mod_one _) unmapped,
      finishLoad_unmapped (w := .byte) (Nat.mod_one _) unmapped⟩⟩

/-- Settles O13. -/
theorem loadHalfSignedAndUnsigned : Obligations.LoadHalfSignedAndUnsigned := fun rt base off _ =>
  ⟨iType_and_opMask 0x21#6 base rt off, iType_and_opMask 0x25#6 base rt off,
    fun al plain => ⟨finishLoad_half_frame (BitVec.signExtend 32) al plain, exec_lhu_frame al plain⟩,
    fun mis => ⟨finishLoad_misaligned (w := .half) mis, finishLoad_misaligned (w := .half) mis⟩,
    fun al unmapped => ⟨finishLoad_unmapped (w := .half) al unmapped, finishLoad_unmapped (w := .half) al unmapped⟩⟩

/-! What each store leaves. -/

section
variable {s : State} {rt base : Reg} {off : Imm16} (wf : Memory.wf s.mem = true)
include wf

theorem exec_sw_frame (al : (s.effAddr base off).toNat % 4 = 0) (plain : AllPlain s .store (s.effAddr base off) 4) :
    ∃ t, exec (.sw rt off base) s = .next t ∧ OnlyStored s t (s.effAddr base off) 4 ∧
      wordAt s.cfg.endian t.mem (s.effAddr base off).toNat = s.readGpr rt :=
  ⟨_, finishStore_answers (w := .word) al plain, storeBytes_frame (w := .word) wf (aligned_iff.2 al),
    wordAt_storeBytes _ wf (aligned_iff.2 al)⟩

theorem exec_sh_frame (al : (s.effAddr base off).toNat % 2 = 0) (plain : AllPlain s .store (s.effAddr base off) 2) :
    ∃ t, exec (.sh rt off base) s = .next t ∧ OnlyStored s t (s.effAddr base off) 2 ∧
      halfAt s.cfg.endian t.mem (s.effAddr base off).toNat = (s.readGpr rt).extractLsb' 0 16 :=
  ⟨_, finishStore_answers (w := .half) al plain, storeBytes_frame (w := .half) wf (aligned_iff.2 al),
    halfAt_storeBytes _ wf (aligned_iff.2 al)⟩

theorem exec_sb_frame (plain : AllPlain s .store (s.effAddr base off) 1) :
    ∃ t, exec (.sb rt off base) s = .next t ∧ OnlyStored s t (s.effAddr base off) 1 ∧
      Memory.read t.mem (s.effAddr base off).toNat = (s.readGpr rt).extractLsb' 0 8 :=
  ⟨_, finishStore_answers (w := .byte) (Nat.mod_one _) plain,
    storeBytes_frame (w := .byte) wf (aligned_iff.2 (Nat.mod_one _)), read_storeBytes_byte _ wf⟩

end

/-- Settles O14. -/
theorem storeWord : Obligations.StoreWord := fun rt base off _ wf =>
  ⟨iType_and_opMask 0x2B#6 base rt off, exec_sw_frame wf, finishStore_misaligned (w := .word),
    finishStore_unmapped (w := .word)⟩

/-- Settles O15. -/
theorem storeByteAndHalf : Obligations.StoreByteAndHalf := fun rt base off _ wf =>
  ⟨iType_and_opMask 0x28#6 base rt off, iType_and_opMask 0x29#6 base rt off, exec_sb_frame wf, exec_sh_frame wf,
    finishStore_misaligned (w := .half), finishStore_unmapped (w := .byte) (Nat.mod_one _),
    finishStore_unmapped (w := .half)⟩

/-! A load after a store (20_memory.md R53). -/

section
variable {s t : State} {ea : Word} {n : Nat}

theorem OnlyStored.effAddr_eq (frame : OnlyStored s t ea n) (base : Reg) (off : Imm16) :
    t.effAddr base off = s.effAddr base off := by
  rw [State.effAddr, frame.gprs, ← State.effAddr]

theorem OnlyStored.cfg_eq (frame : OnlyStored s t ea n) : t.cfg = s.cfg := frame.inputs.2.2

theorem OnlyStored.allPlain (frame : OnlyStored s t ea n) {k : Access} {a : Word} {m : Nat} (plain : AllPlain s k a m) :
    AllPlain t k a m := by
  rw [AllPlain, frame.cfg_eq]; exact plain

/-- The register a load wrote. -/
theorem OnlyGprAndPc.readGpr_dest {d : Reg} {v a : Word} (frame : OnlyGprAndPc s t d v a) :
    t.readGpr d = if d = 0#5 then 0#32 else v := by
  rw [frame.gprs]
  split_ifs with h z z
  · exact absurd z h.2
  · rfl
  · rw [z, State.readGpr_zero]
  · exact absurd ⟨rfl, z⟩ h

end

/-- Settles O17: the store's frame keeps the base register and the map, so the load reads the very bytes stored. -/
theorem loadAfterStoreGivesTheStoredValue : Obligations.LoadAfterStoreGivesTheStoredValue := by
  intro rt rd base off s wf
  refine ⟨fun al store load => ?_, fun al store load => ?_, fun store load => ?_⟩
  · obtain ⟨t, stores, frame, value⟩ := exec_sw_frame (rt := rt) wf al store
    have ea := frame.effAddr_eq base off
    obtain ⟨u, loads, frame'⟩ := exec_lw_frame (s := t) (rt := rd) (ea.symm ▸ al) (ea.symm ▸ frame.allPlain load)
    rw [ea, frame.cfg_eq, value] at frame'
    exact ⟨t, u, stores, loads, frame'.readGpr_dest⟩
  · obtain ⟨t, stores, frame, value⟩ := exec_sh_frame (rt := rt) wf al store
    have ea := frame.effAddr_eq base off
    obtain ⟨u, loads, frame'⟩ := exec_lhu_frame (s := t) (rt := rd) (ea.symm ▸ al) (ea.symm ▸ frame.allPlain load)
    rw [ea, frame.cfg_eq, value] at frame'
    refine ⟨t, u, stores, loads, ?_⟩
    rw [frame'.readGpr_dest]
    split_ifs
    · rfl
    · simp; omega
  · obtain ⟨t, stores, frame, value⟩ := exec_sb_frame (rt := rt) wf store
    have ea := frame.effAddr_eq base off
    obtain ⟨u, loads, frame'⟩ := exec_lbu_frame (s := t) (rt := rd) (ea.symm ▸ frame.allPlain load)
    rw [ea, value] at frame'
    refine ⟨t, u, stores, loads, ?_⟩
    rw [frame'.readGpr_dest]
    split_ifs
    · rfl
    · simp; omega

/-! The stops of the model's own (log 7). -/

theorem dataAccess_ne_fetch (s : State) (i : Instr) (w : Width) (ea : Word) :
    dataAccess s i ≠ some (.fetch, w, ea) := by
  cases i <;> simp [dataAccess]

theorem fetchInstr_refused_of_device {s : State} (al : s.pc.toNat % 4 = 0) (mapped : ¬SomeUnmapped s .fetch s.pc 4)
    (device : SomeDevice s .fetch s.pc 4) : s.fetchInstr = .refused .deviceAccess := by
  rw [State.fetchInstr, memFetch_device (aligned_iff.2 al) mapped device, andThen_of_refused]

/-- Settles O16. -/
theorem readOnlyAndDeviceAccessesStop : Obligations.ReadOnlyAndDeviceAccessesStop := by
  refine ⟨fun i s k w ea access al mapped => ?_, fun s quiet al mapped device => ?_, fun s w ea v al => ?_⟩
  · cases k with
    | fetch => exact absurd access (dataAccess_ne_fetch s i w ea)
    | load =>
      obtain ⟨ext, rt, off, base, rfl, exec_eq⟩ := exec_of_load i access
      rw [exec_eq]
      exact ⟨nofun, fun _ => finishLoad_device al mapped⟩
    | store =>
      obtain ⟨rt, off, base, rfl, exec_eq⟩ := exec_of_store i access
      rw [exec_eq]
      exact ⟨fun _ => finishStore_readOnly al mapped,
        fun writable => finishStore_device al mapped fun readOnly => writable ⟨rfl, readOnly⟩⟩
  · refine step_fetch_refused quiet (fetchInstr_refused_of_device ?_ ?_ ?_)
    · simpa using al
    · simpa [SomeUnmapped] using mapped
    · simpa [SomeDevice] using device
  · exact ⟨memRead_device (aligned_iff.2 al), memWrite_readOnly (aligned_iff.2 al), memWrite_device (aligned_iff.2 al)⟩

end Sys2Proof.Machine
end

section
/-! Operands as integers (20_memory.md R42; 30_encoding.md R76, R78, R79). -/

namespace Sys2Proof.Machine

/-- A sum taken modulo 2^32, with an operand given as a signed integer. -/
theorem toNat_add_ofInt (x : Word) (k : Int) : ((x + BitVec.ofInt 32 k).toNat : Int) = (x.toNat + k) % 2 ^ 32 := by
  rw [BitVec.toNat_add, BitVec.toNat_ofInt]
  omega

/-- The sign-extended immediate is its signed value modulo 2^32. -/
theorem signedImm_eq_ofInt (imm : Imm16) : signedImm imm = BitVec.ofInt 32 imm.toInt := rfl

theorem toNat_add_signedImm (x : Word) (imm : Imm16) : ((x + signedImm imm).toNat : Int) = (x.toNat + imm.toInt) % 2 ^ 32 :=
  toNat_add_ofInt x imm.toInt

/-- The sign-extended immediate, as an unsigned integer. -/
theorem toNat_signedImm (imm : Imm16) :
    (signedImm imm).toNat = if imm.toNat < 2 ^ 15 then imm.toNat else imm.toNat + 0xFFFF0000 := by
  have := imm.isLt
  rw [signedImm_eq_ofInt, BitVec.toNat_ofInt, BitVec.toInt_eq_toNat_cond]
  split_ifs <;> omega

theorem branchTarget_eq (s : State) (off : Imm16) :
    s.branchTarget off = s.pc + 4#32 + BitVec.ofInt 32 (4 * off.toInt) := by
  refine congrArg (s.pc + 4#32 + ·) (BitVec.eq_of_toNat_eq ?_)
  have := off.isLt
  rw [BitVec.toNat_shiftLeft, Nat.shiftLeft_eq, signedImm_eq_ofInt, BitVec.toNat_ofInt, BitVec.toNat_ofInt]
  omega

theorem toNat_jumpTarget (s : State) (target : Target26) :
    (s.jumpTarget target).toNat = (s.pc + 4#32).toNat / 2 ^ 28 * 2 ^ 28 + 4 * target.toNat := by
  have bound := (s.pc + 4#32).isLt
  have joined : (s.jumpTarget target).toNat =
      (((s.pc + 4#32).extractLsb' 28 4).toNat <<< 26 ||| target.toNat) <<< 2 ||| 0 :=
    (BitVec.toNat_append _ _).trans (by rw [BitVec.toNat_append]; rfl)
  rw [joined, Nat.or_zero, ← Nat.shiftLeft_add_eq_or_of_lt target.isLt, BitVec.extractLsb'_toNat,
    Nat.shiftRight_eq_div_pow, Nat.shiftLeft_eq, Nat.shiftLeft_eq]
  omega

/-- Settles O7. -/
theorem addressFormulasWrapModulo32 : Obligations.AddressFormulasWrapModulo32 := by
  intro s base off target
  refine ⟨toNat_add_signedImm _ off, ?_, ?_⟩
  · rw [branchTarget_eq, toNat_add_ofInt, BitVec.toNat_add]
    simp only [BitVec.toNat_ofNat]
    omega
  · rw [toNat_jumpTarget, BitVec.toNat_add]
    rfl

end Sys2Proof.Machine
end

section
/-! Register and immediate ALU instructions: what each writes, as the spec's arithmetic (41_alu_r.md, 43_alu_i.md). -/

namespace Sys2Proof.Machine

/-- A register instruction writes its value, of which something is known, and advances. -/
theorem exec_writes {P : Word → Prop} {i : Instr} {s : State} {rd : Reg} {v : Word} (completes : exec i s = finishGpr s rd v)
    (hv : P v) : ∃ v t, exec i s = .next t ∧ OnlyGprAndPc s t rd v (s.pc + 4#32) ∧ P v :=
  have ⟨t, answers, frame⟩ := finishGpr_frame s rd v
  ⟨v, t, completes.trans answers, frame, hv⟩

/-- An instruction that may overflow, when its exact result fits. -/
theorem finishOrOverflow_fits (s : State) (rd : Reg) {r : BitVec 33} {x : Int} (value : r.toInt = x)
    (fits : -2 ^ 31 ≤ x ∧ x < 2 ^ 31) :
    ∃ t, finishOrOverflow s rd r = .next t ∧ OnlyGprAndPc s t rd (BitVec.ofInt 32 x) (s.pc + 4#32) := by
  have quiet : ¬overflows r = true := fun overflow => (overflows_iff r).1 overflow (value.symm ▸ fits)
  rw [finishOrOverflow, if_neg quiet, setWidth_eq_ofInt, value]
  exact finishGpr_frame s rd _

/-- The same, when its exact result does not fit: the Overflow exception at its own pc (60_exceptions.md R253). -/
theorem finishOrOverflow_overflow (s : State) (rd : Reg) {r : BitVec 33} {x : Int} (value : r.toInt = x)
    (out : OutOfRange x) :
    ∃ t, finishOrOverflow s rd r = .next t ∧ ExceptionEntry s t s.cfg.excOv false s.pc := by
  rw [finishOrOverflow, if_pos ((overflows_iff r).2 (value.symm ▸ out))]
  exact ⟨_, rfl, takeException_entry s .overflow false s.pc⟩

theorem toInt_sum33_signedImm (a : Word) (imm : Imm16) : (sum33 a (signedImm imm)).toInt = a.toInt + imm.toInt := by
  rw [toInt_sum33, toInt_signedImm]

/-- Settles O18. -/
theorem addSubAddiWriteOrOverflow : Obligations.AddSubAddiWriteOrOverflow := fun rd rs rt imm s =>
  ⟨rType_and_funcMask rs rt rd 0#5 0x20#6, rType_and_funcMask rs rt rd 0#5 0x22#6, iType_and_opMask 0x08#6 rs rt imm,
    fun lo hi => finishOrOverflow_fits s rd (toInt_sum33 _ _) ⟨lo, hi⟩,
    finishOrOverflow_overflow s rd (toInt_sum33 _ _),
    fun lo hi => finishOrOverflow_fits s rd (toInt_diff33 _ _) ⟨lo, hi⟩,
    finishOrOverflow_overflow s rd (toInt_diff33 _ _),
    fun lo hi => finishOrOverflow_fits s rt (toInt_sum33_signedImm _ imm) ⟨lo, hi⟩,
    finishOrOverflow_overflow s rt (toInt_sum33_signedImm _ imm)⟩

theorem toNat_sub_mod (x y : Word) : ((x - y).toNat : Int) = (x.toNat - y.toNat : Int) % 2 ^ 32 := by
  rw [BitVec.toNat_sub]
  omega

/-- Settles O19. -/
theorem unsignedAddSubWrap : Obligations.UnsignedAddSubWrap := fun rd rs rt imm _ =>
  ⟨rType_and_funcMask rs rt rd 0#5 0x21#6, rType_and_funcMask rs rt rd 0#5 0x23#6, iType_and_opMask 0x09#6 rs rt imm,
    exec_writes rfl (BitVec.toNat_add _ _), exec_writes rfl (toNat_sub_mod _ _),
    exec_writes rfl (toNat_add_signedImm _ imm)⟩

/-- Settles O20. -/
theorem setOnLessThan : Obligations.SetOnLessThan := by
  intro rd rs rt imm s
  refine ⟨rType_and_funcMask rs rt rd 0#5 0x2A#6, rType_and_funcMask rs rt rd 0#5 0x2B#6,
    iType_and_opMask 0x0A#6 rs rt imm, iType_and_opMask 0x0B#6 rs rt imm, ?_, ?_, ?_, ?_⟩
  · rw [exec_slt]
    exact finishGpr_frame s rd _
  · rw [exec_sltu]
    exact finishGpr_frame s rd _
  · rw [← toInt_signedImm, ← boolWord_decide]
    exact finishGpr_frame s rt _
  · rw [← toNat_signedImm, ← boolWord_decide]
    exact finishGpr_frame s rt _

/-- Settles O21. -/
theorem registerLogicBitByBit : Obligations.RegisterLogicBitByBit := fun rd rs rt s =>
  ⟨rType_and_funcMask rs rt rd 0#5 0x24#6, rType_and_funcMask rs rt rd 0#5 0x25#6,
    rType_and_funcMask rs rt rd 0#5 0x26#6, rType_and_funcMask rs rt rd 0#5 0x27#6,
    exec_writes rfl fun _ _ => BitVec.getLsbD_and,
    exec_writes rfl fun _ _ => BitVec.getLsbD_or,
    exec_writes rfl fun _ _ => BitVec.getLsbD_xor,
    exec_writes rfl fun k hk => by rw [BitVec.getLsbD_not, BitVec.getLsbD_or, decide_eq_true hk, Bool.true_and]⟩

/-- The zero-extended immediate has the immediate's bits, and above them none. -/
theorem getLsbD_zeroImm (imm : Imm16) {k : Nat} (hk : k < 32) :
    (zeroImm imm).getLsbD k = (decide (k < 16) && imm.getLsbD k) := by
  rcases Nat.lt_or_ge k 16 with h | h
  · simp [zeroImm, h, hk]
  · simp [zeroImm, BitVec.getLsbD_of_ge imm k h]

theorem upperImm_eq_ofNat (imm : Imm16) : upperImm imm = BitVec.ofNat 32 (imm.toNat * 2 ^ 16) := by
  have := imm.isLt
  refine BitVec.eq_of_toNat_eq ((BitVec.toNat_append imm 0#16).trans ?_)
  rw [BitVec.toNat_ofNat, BitVec.toNat_ofNat, Nat.zero_mod, Nat.or_zero, Nat.shiftLeft_eq]
  omega

/-- Settles O22. -/
theorem immediateLogicBitByBit : Obligations.ImmediateLogicBitByBit := by
  intro rt rs imm s
  refine ⟨iType_and_opMask 0x0C#6 rs rt imm, iType_and_opMask 0x0D#6 rs rt imm, iType_and_opMask 0x0E#6 rs rt imm,
    iType_and_opMask 0x0F#6 0#5 rt imm, exec_writes rfl fun k hk => ?_, exec_writes rfl fun k hk => ?_,
    exec_writes rfl fun k hk => ?_, upperImm_eq_ofNat imm ▸ finishGpr_frame s rt _⟩
  · rw [BitVec.getLsbD_and, getLsbD_zeroImm imm hk, Bool.and_left_comm, Bool.and_assoc]
  · rw [BitVec.getLsbD_or, getLsbD_zeroImm imm hk]
  · rw [BitVec.getLsbD_xor, getLsbD_zeroImm imm hk]

/-! Shifts as multiplication and floor division (R131 to R136). -/

theorem toNat_shiftLeft_eq (x : Word) (n : Nat) : (x <<< n).toNat = x.toNat * 2 ^ n % 2 ^ 32 := by
  rw [BitVec.toNat_shiftLeft, Nat.shiftLeft_eq]

theorem toNat_ushiftRight_eq (x : Word) (n : Nat) : (x >>> n).toNat = x.toNat / 2 ^ n := by
  rw [BitVec.toNat_ushiftRight, Nat.shiftRight_eq_div_pow]

theorem toInt_sshiftRight_eq (x : Word) (n : Nat) : (x.sshiftRight n).toInt = x.toInt / 2 ^ n := by
  rw [BitVec.toInt_sshiftRight, Int.shiftRight_eq_div_pow, Nat.cast_pow]
  rfl

theorem shiftCount_eq (v : Word) : shiftCount v = v.toNat % 32 :=
  BitVec.extractLsb'_toNat 0 5 v

/-- Settles O23. -/
theorem shiftsByImmediate : Obligations.ShiftsByImmediate := fun rd rt sa _ =>
  ⟨rType_and_funcMask 0#5 rt rd sa 0x00#6, rType_and_funcMask 0#5 rt rd sa 0x02#6,
    rType_and_funcMask 0#5 rt rd sa 0x03#6, exec_writes rfl (toNat_shiftLeft_eq _ _),
    exec_writes rfl (toNat_ushiftRight_eq _ _), exec_writes rfl (toInt_sshiftRight_eq _ _)⟩

/-- Settles O24. -/
theorem variableShifts : Obligations.VariableShifts := by
  intro rd rt rs s
  rw [← shiftCount_eq]
  exact ⟨rType_and_funcMask rs rt rd 0#5 0x04#6, rType_and_funcMask rs rt rd 0#5 0x06#6,
    rType_and_funcMask rs rt rd 0#5 0x07#6, exec_writes rfl (toNat_shiftLeft_eq _ _),
    exec_writes rfl (toNat_ushiftRight_eq _ _), exec_writes rfl (toInt_sshiftRight_eq _ _)⟩

end Sys2Proof.Machine
end

section
/-! Multiply and divide (42_muldiv.md R150 to R154). -/

namespace Sys2Proof.Machine

/-- The completions that write HI and LO change nothing else but pc. -/
theorem finishHiLo_frame (s : State) (hi lo : Word) :
    ∃ t, finishHiLo s hi lo = .next t ∧ OnlyHiLo s t ∧ t.hi = hi ∧ t.lo = lo :=
  ⟨_, rfl, ⟨fun _ => rfl, rfl, ⟨rfl, rfl, rfl⟩, ⟨fun _ => rfl, rfl⟩, ⟨rfl, rfl, rfl⟩⟩, rfl, rfl⟩

theorem finishFreeHiLo_frame (s : State) : ∃ t, finishFreeHiLo s = .next t ∧ OnlyHiLo s t :=
  ⟨_, rfl, ⟨fun _ => rfl, rfl, ⟨rfl, rfl, rfl⟩, ⟨fun _ => rfl, rfl⟩, ⟨rfl, rfl, rfl⟩⟩⟩

/-- The two halves of a 64-bit product. -/
theorem toNat_halves (p : BitVec 64) : (p.extractLsb' 32 32).toNat * 2 ^ 32 + (p.extractLsb' 0 32).toNat = p.toNat := by
  have := p.isLt
  rw [BitVec.extractLsb'_toNat, BitVec.extractLsb'_toNat, Nat.shiftRight_eq_div_pow, Nat.shiftRight_zero]
  omega

theorem toInt_halves (p : BitVec 64) :
    (p.extractLsb' 32 32).toInt * 2 ^ 32 + ((p.extractLsb' 0 32).toNat : Int) = p.toInt := by
  have halves := toNat_halves p
  have := (p.extractLsb' 32 32).isLt
  have := (p.extractLsb' 0 32).isLt
  rw [BitVec.toInt_eq_toNat_cond, BitVec.toInt_eq_toNat_cond]
  split_ifs <;> omega

/-- Settles O25: a product of two words fits 64 bits. -/
theorem multiplyIsExact : Obligations.MultiplyIsExact := by
  intro rs rt s
  refine ⟨rType_and_funcMask rs rt 0#5 0#5 0x18#6, rType_and_funcMask rs rt 0#5 0#5 0x19#6, ?_, ?_⟩
  · obtain ⟨t, answers, frame, hi, lo⟩ := finishHiLo_frame s _ _
    refine ⟨t, answers, frame, ?_⟩
    rw [hi, lo, toInt_halves, BitVec.toInt_ofInt]
    have upper := BitVec.toInt_mul_toInt_le (x := s.readGpr rs) (y := s.readGpr rt)
    have lower := BitVec.le_toInt_mul_toInt (x := s.readGpr rs) (y := s.readGpr rt)
    exact Int.bmod_eq_of_le (by omega) (by omega)
  · obtain ⟨t, answers, frame, hi, lo⟩ := finishHiLo_frame s _ _
    refine ⟨t, answers, frame, ?_⟩
    rw [hi, lo, toNat_halves, BitVec.toNat_ofNat]
    have bound := Nat.mul_lt_mul'' (s.readGpr rs).isLt (s.readGpr rt).isLt
    exact Nat.mod_eq_of_lt bound

theorem ofInt_tmod (a b : Word) : BitVec.ofInt 32 (a.toInt.tmod b.toInt) = a.srem b := by
  rw [← BitVec.toInt_srem, BitVec.ofInt_toInt]

/-- The one quotient that does not fit is that of 0x80000000 by -1. -/
theorem ofInt_tdiv {a b : Word} (h : ¬(a = 0x80000000#32 ∧ b = 0xFFFFFFFF#32)) :
    BitVec.ofInt 32 (a.toInt.tdiv b.toInt) = a.sdiv b := by
  rw [← BitVec.toInt_sdiv_of_ne_or_ne a b (not_and_or.1 h), BitVec.ofInt_toInt]

/-- Settles O26. -/
theorem divideGivesQuotientAndRemainder : Obligations.DivideGivesQuotientAndRemainder := by
  intro rs rt s
  refine ⟨rType_and_funcMask rs rt 0#5 0#5 0x1A#6, rType_and_funcMask rs rt 0#5 0#5 0x1B#6, fun nonzero fits => ?_,
    fun free => ?_, fun nonzero => ?_, fun zero => ?_⟩
  · obtain ⟨t, answers, frame, hi, lo⟩ := finishHiLo_frame s
      (BitVec.ofInt 32 ((s.readGpr rs).toInt.tmod (s.readGpr rt).toInt))
      (BitVec.ofInt 32 ((s.readGpr rs).toInt.tdiv (s.readGpr rt).toInt))
    rw [ofInt_tmod] at hi
    rw [ofInt_tdiv fits] at lo
    refine ⟨t, ((if_neg nonzero).trans (if_neg fits)).trans answers, frame, ?_⟩
    rw [hi, lo, BitVec.toInt_srem, BitVec.toInt_sdiv_of_ne_or_ne _ _ (not_and_or.1 fits)]
    have divisor : (s.readGpr rt).toInt ≠ 0 := fun h => nonzero (BitVec.eq_of_toInt_eq h)
    refine ⟨(Int.tdiv_mul_add_tmod _ _).symm, ?_, Int.tmod_nonneg _, fun negative => ?_⟩
    · rw [Int.natAbs_tmod]
      exact Nat.mod_lt _ (Int.natAbs_pos.2 divisor)
    · have mirrored := Int.tmod_nonneg (s.readGpr rt).toInt (Int.neg_nonneg_of_nonpos negative)
      rw [Int.neg_tmod] at mirrored
      omega
  · show ∃ t, execDiv rs rt s = .next t ∧ OnlyHiLo s t
    simp only [execDiv]
    split_ifs with zero unfit
    · exact finishFreeHiLo_frame s
    · exact finishFreeHiLo_frame s
    · exact absurd free (not_or.2 ⟨zero, unfit⟩)
  · obtain ⟨t, answers, frame, hi, lo⟩ := finishHiLo_frame s
      (BitVec.ofNat 32 ((s.readGpr rs).toNat % (s.readGpr rt).toNat))
      (BitVec.ofNat 32 ((s.readGpr rs).toNat / (s.readGpr rt).toNat))
    refine ⟨t, (if_neg nonzero).trans answers, frame, ?_⟩
    have divisor : 0 < (s.readGpr rt).toNat := Nat.pos_of_ne_zero fun h => nonzero (BitVec.eq_of_toNat_eq h)
    have quotient := Nat.div_le_self (s.readGpr rs).toNat (s.readGpr rt).toNat
    have remainder := Nat.mod_lt (s.readGpr rs).toNat divisor
    have := (s.readGpr rs).isLt
    have := (s.readGpr rt).isLt
    rw [hi, lo, BitVec.toNat_ofNat, BitVec.toNat_ofNat, Nat.mod_eq_of_lt (by omega), Nat.mod_eq_of_lt (by omega)]
    exact ⟨(Nat.div_add_mod' _ _).symm, remainder⟩
  · obtain ⟨t, answers, frame⟩ := finishFreeHiLo_frame s
    exact ⟨t, (if_pos zero).trans answers, frame⟩

end Sys2Proof.Machine
end

section
/-! Branches, jumps and the HI and LO transfers (44_branch.md, 45_jump.md, 46_hilo_move.md). -/

namespace Sys2Proof.Machine

/-- Setting pc changes pc only. -/
theorem setPc_frame (s : State) (a : Word) : OnlyPc s (s.setPc a) a :=
  ⟨fun _ => rfl, rfl, ⟨rfl, rfl⟩, ⟨rfl, rfl, rfl⟩, ⟨fun _ => rfl, rfl⟩, ⟨rfl, rfl, rfl⟩⟩

/-- Linking and going somewhere changes the link register and pc only. -/
theorem link_frame (s : State) (d : Reg) (v a : Word) : OnlyGprAndPc s ((s.writeGpr d v).setPc a) d v a :=
  ⟨fun r => by simp [State.readGpr_writeGpr], rfl, ⟨by simp, by simp⟩, ⟨by simp, by simp, by simp⟩,
    ⟨by simp, by simp⟩, ⟨by simp, by simp⟩⟩

/-- Where a branch goes, its condition given as a proposition. -/
theorem branch_target_eq (s : State) {cond : Bool} {p : Prop} [Decidable p] (h : cond = true ↔ p) (off : Imm16) :
    (if cond then s.branchTarget off else s.pc + 4#32) =
      if p then s.pc + 4#32 + BitVec.ofInt 32 (4 * off.toInt) else s.pc + 4#32 := by
  simp only [h, branchTarget_eq]

theorem finishBranch_frame (s : State) {cond : Bool} {p : Prop} [Decidable p] (h : cond = true ↔ p) (off : Imm16) :
    ∃ t, finishBranch s cond off = .next t ∧
      OnlyPc s t (if p then s.pc + 4#32 + BitVec.ofInt 32 (4 * off.toInt) else s.pc + 4#32) :=
  ⟨_, rfl, branch_target_eq s h off ▸ setPc_frame s _⟩

theorem finishBranchLink_frame (s : State) {cond : Bool} {p : Prop} [Decidable p] (h : cond = true ↔ p) (off : Imm16) :
    ∃ t, finishBranchLink s cond off = .next t ∧ OnlyGprAndPc s t linkReg (s.pc + 4#32)
      (if p then s.pc + 4#32 + BitVec.ofInt 32 (4 * off.toInt) else s.pc + 4#32) := by
  refine ⟨_, rfl, ?_⟩
  rw [State.branchTarget, State.writeGpr_pc, ← State.branchTarget, branch_target_eq s h off]
  exact link_frame s linkReg (s.pc + 4#32) _

/-! The signed conditions, on the sign bit. -/

theorem toInt_neg_iff (x : Word) : x.toInt < 0 ↔ x.getLsbD 31 = true := by
  show _ ↔ x.getLsbD (32 - 1) = true
  rw [← BitVec.msb_eq_getLsbD_last, BitVec.msb_eq_toInt, decide_eq_true_iff]

theorem toInt_nonneg_iff (x : Word) : 0 ≤ x.toInt ↔ x.getLsbD 31 = false := by
  rw [← not_lt, toInt_neg_iff, Bool.not_eq_true]

theorem toInt_eq_zero_iff (x : Word) : x.toInt = 0 ↔ x = 0#32 :=
  BitVec.toInt_inj (y := 0#32)

theorem toInt_nonpos_iff (x : Word) : x.toInt ≤ 0 ↔ x = 0#32 ∨ x.getLsbD 31 = true := by
  rw [← toInt_eq_zero_iff, ← toInt_neg_iff]
  omega

theorem toInt_pos_iff (x : Word) : 0 < x.toInt ↔ x.getLsbD 31 = false ∧ x ≠ 0#32 := by
  rw [← toInt_nonneg_iff, Ne, ← toInt_eq_zero_iff]
  omega

/-- Settles O27. -/
theorem conditionalBranches : Obligations.ConditionalBranches := by
  rintro rs rt off s _ rfl
  exact ⟨⟨iType_and_opMask 0x04#6 rs rt off, iType_and_opMask 0x05#6 rs rt off, iType_and_opMask 0x06#6 rs 0#5 off,
      iType_and_opMask 0x07#6 rs 0#5 off, iType_and_regimmMask 0x01#6 rs 0x00#5 off,
      iType_and_regimmMask 0x01#6 rs 0x01#5 off⟩,
    finishBranch_frame s beq_iff_eq off, finishBranch_frame s bne_iff_ne off,
    finishBranch_frame s (decide_eq_true_iff.trans (toInt_nonpos_iff _)) off,
    finishBranch_frame s (decide_eq_true_iff.trans (toInt_pos_iff _)) off,
    finishBranch_frame s (decide_eq_true_iff.trans (toInt_neg_iff _)) off,
    finishBranch_frame s (decide_eq_true_iff.trans (toInt_nonneg_iff _)) off⟩

/-- Settles O28. -/
theorem linkingBranches : Obligations.LinkingBranches := by
  rintro rs off s _ rfl
  exact ⟨iType_and_regimmMask 0x01#6 rs 0x11#5 off, iType_and_regimmMask 0x01#6 rs 0x10#5 off,
    finishBranchLink_frame s (decide_eq_true_iff.trans (toInt_nonneg_iff _)) off,
    finishBranchLink_frame s (decide_eq_true_iff.trans (toInt_neg_iff _)) off⟩

/-- Settles O29. -/
theorem jumpsAndTheirLinks : Obligations.JumpsAndTheirLinks := by
  refine ⟨fun target s a region => ?_, fun rd rs s => ?_⟩
  · obtain rfl : s.jumpTarget target = a := by
      rw [region, Nat.mul_comm target.toNat, ← toNat_jumpTarget, BitVec.ofNat_toNat, BitVec.setWidth_eq]
    exact ⟨jType_and_opMask 0x02#6 target, jType_and_opMask 0x03#6 target, ⟨_, rfl, setPc_frame s _⟩,
      ⟨_, rfl, link_frame s linkReg _ _⟩⟩
  · exact ⟨rType_and_funcMask rs 0#5 rd 0#5 0x09#6, rType_and_funcMask rs 0#5 0#5 0#5 0x08#6,
      ⟨_, rfl, link_frame s rd _ _⟩, ⟨_, rfl, setPc_frame s _⟩⟩

/-- Settles O31. -/
theorem hiLoTransfers : Obligations.HiLoTransfers := fun r s =>
  ⟨⟨rType_and_funcMask 0#5 0#5 r 0#5 0x10#6, rType_and_funcMask 0#5 0#5 r 0#5 0x12#6,
      rType_and_funcMask r 0#5 0#5 0#5 0x11#6, rType_and_funcMask r 0#5 0#5 0#5 0x13#6⟩,
    finishGpr_frame s r s.hi, finishGpr_frame s r s.lo,
    finishHiLo_frame s (s.readGpr r) s.lo,
    have ⟨t, answers, frame, hi, lo⟩ := finishHiLo_frame s s.hi (s.readGpr r)
    ⟨t, answers, frame, lo, hi⟩⟩

end Sys2Proof.Machine
end

section
/-! CP0 access, traps and the return (47_cp0_privileged.md, 48_trap.md, 60_exceptions.md). -/

namespace Sys2Proof.Machine

/-! Where Status, Cause and EPC are read and written (R222, R223). -/

/-- Under its mask, merged bits are the new ones. -/
theorem mergeBits_and_mask (old new mask : Word) : mergeBits old new mask &&& mask = new &&& mask :=
  BitVec.eq_of_getLsbD_eq fun k _ => by
    rw [BitVec.getLsbD_and, BitVec.getLsbD_and, getLsbD_mergeBits]
    cases mask.getLsbD k <;> simp

/-- Drawing free values is in no frame. -/
theorem OnlyGprAndPc.of_draw {s t : State} {n : Nat} {d : Reg} {v a : Word} (h : OnlyGprAndPc (s.draw n) t d v a) :
    OnlyGprAndPc s t d v a :=
  ⟨h.gprs, h.pc, h.hilo, h.cp0, h.memory, h.inputs⟩

section
variable (s : State) (rt : Reg)

theorem exec_mfc0_status : ∃ v t, exec (.mfc0 rt 12#5 0#3) s = .next t ∧ OnlyGprAndPc s t rt v (s.pc + 4#32) ∧
    v &&& statusMask s.cfg = s.status &&& statusMask s.cfg :=
  have ⟨t, answers, frame⟩ := finishGpr_frame (s.draw 1) rt
    (mergeBits (Config.freeWord s.draws) s.status (statusMask s.cfg))
  ⟨_, t, answers, frame.of_draw, mergeBits_and_mask _ _ _⟩

theorem exec_mfc0_cause : ∃ v t, exec (.mfc0 rt 13#5 0#3) s = .next t ∧ OnlyGprAndPc s t rt v (s.pc + 4#32) ∧
    v &&& causeMask s.cfg = s.cause &&& causeMask s.cfg :=
  have ⟨t, answers, frame⟩ := finishGpr_frame (s.draw 1) rt
    (mergeBits (Config.freeWord s.draws) s.cause (causeMask s.cfg))
  ⟨_, t, answers, frame.of_draw, mergeBits_and_mask _ _ _⟩

theorem exec_mfc0_epc : ∃ t, exec (.mfc0 rt 14#5 0#3) s = .next t ∧ OnlyGprAndPc s t rt s.epc (s.pc + 4#32) :=
  finishGpr_frame s rt s.epc

theorem exec_mfc0_stops {rd : Reg} {sel : BitVec 3} (h : rd ≠ 12#5 ∧ rd ≠ 13#5 ∧ rd ≠ 14#5 ∨ sel ≠ 0#3) :
    exec (.mfc0 rt rd sel) s = .fault .unimplementedCp0Register := by
  have stop : s.readCp0 rd sel = .fault .unimplementedCp0Register := by
    unfold State.readCp0
    obtain ⟨not12, not13, not14⟩ | selected := h
    · rw [if_neg not12, if_neg not13, if_neg not14, ite_self]
    · rw [if_pos selected]
  show andThen (s.readCp0 rd sel) _ = _
  rw [stop, andThen_of_fault]

theorem exec_mtc0_stops {rd : Reg} (sel : BitVec 3) (h : rd ≠ 12#5 ∧ rd ≠ 13#5 ∧ rd ≠ 14#5) :
    exec (.mtc0 rt rd sel) s = .fault .unimplementedCp0Register := by
  obtain ⟨not12, not13, not14⟩ := h
  have stop : s.writeCp0 rd (s.readGpr rt) = .fault .unimplementedCp0Register := by
    rw [State.writeCp0, if_neg not12, if_neg not13, if_neg not14]
  show andThen (s.writeCp0 rd (s.readGpr rt)) _ = _
  rw [stop, andThen_of_fault]

end

/-- Without STRICT_DECODE opcode and rs alone make a word of mfc0 or mtc0. -/
theorem decodeWord_loose_cop0 {c : Config} {w : Word} (loose : c.strictDecode = false) (op : opcodeField w = 0x10#6) :
    (rsField w = 0x00#5 → decodeWord c w = .ok (.mfc0 (rtField w) (rdField w) (selField w))) ∧
      (rsField w = 0x04#5 → decodeWord c w = .ok (.mtc0 (rtField w) (rdField w) (selField w))) := by
  refine ⟨fun rs => ?_, fun rs => ?_⟩ <;>
    simp [decodeWord_cop0 op, decodeCop0, ifUnusedZero, loose, getElem_25, rs]

/-- The fields that the mask of mfc0 and mtc0 asks for. -/
theorem opcode_and_rs_of_and {w : Word} {rs : Reg} (h : w &&& 0xFFE00000#32 = cp0Type rs 0#5 0#5 0#3) :
    opcodeField w = 0x10#6 ∧ rsField w = rs := by
  have op := congrArg opcodeField h
  have rs' := congrArg rsField h
  rw [opcodeField, BitVec.extractLsb'_and] at op
  rw [rsField, BitVec.extractLsb'_and] at rs'
  exact ⟨(and_63 _).symm.trans (op.trans (opcodeField_cp0Type ..)), (and_31 _).symm.trans (rs'.trans (rsField_cp0Type ..))⟩

/-- Settles O32. -/
theorem moveFromCp0 : Obligations.MoveFromCp0 := fun rt rd sel s =>
  ⟨cp0Type_and_rsMask 0x00#5 rt rd sel,
    fun _ _ loose bits =>
      have ⟨op, rs⟩ := opcode_and_rs_of_and (rs := 0x00#5) bits
      (decodeWord_loose_cop0 loose op).1 rs,
    exec_mfc0_status s rt, exec_mfc0_cause s rt, exec_mfc0_epc s rt, exec_mfc0_stops s rt⟩

/-- Settles O33: what mtc0 writes, bit by bit. -/
theorem moveToCp0 : Obligations.MoveToCp0 := by
  intro rt rd sel s
  refine ⟨cp0Type_and_rsMask 0x04#5 rt rd sel, fun _ _ loose bits => ?_, ⟨_, rfl, ?_, ?_, ?_, rfl, rfl, rfl, ?_⟩,
    ⟨_, rfl, ?_, ?_, ?_, ?_, rfl, rfl, rfl, ?_⟩, ⟨_, rfl, rfl, rfl, rfl, rfl, ?_⟩, exec_mtc0_stops s rt sel⟩
  · obtain ⟨op, rs⟩ := opcode_and_rs_of_and (rs := 0x04#5) bits
    exact (decodeWord_loose_cop0 loose op).2 rs
  · simp [State.ie, getLsbD_mergeBits]
  · refine BitVec.eq_of_getLsbD_eq fun k hk => ?_
    have : 9 + k < 29 := by omega
    simp [State.im, getLsbD_mergeBits, this]
  · exact fun k reserved => by simp [getLsbD_mergeBits, -getLsbD_statusMask, reserved]
  · exact ⟨fun _ => rfl, ⟨rfl, rfl⟩, ⟨fun _ => rfl, rfl⟩, ⟨rfl, rfl, rfl⟩⟩
  · simp [State.br, getLsbD_mergeBits]
  · refine BitVec.eq_of_getLsbD_eq fun k hk => ?_
    have : 9 + k < 29 := by omega
    simp [State.ip, getLsbD_mergeBits, this]
  · refine BitVec.eq_of_getLsbD_eq fun k hk => ?_
    have : 2 + k < 7 := by omega
    simp [State.exc, getLsbD_mergeBits, this]
  · exact fun k reserved => by simp [getLsbD_mergeBits, -getLsbD_causeMask, reserved]
  · exact ⟨fun _ => rfl, ⟨rfl, rfl⟩, ⟨fun _ => rfl, rfl⟩, ⟨rfl, rfl, rfl⟩⟩
  · exact ⟨fun _ => rfl, ⟨rfl, rfl⟩, ⟨fun _ => rfl, rfl⟩, ⟨rfl, rfl, rfl⟩⟩

/-! Exception and return (R221, R230 to R232, R262, R264). -/

/-- eret goes to EPC, sets IE and keeps EPC, in the frame of the return. -/
theorem exec_eret (s : State) : ∃ t, exec .eret s = .next t ∧ t.pc = s.epc ∧ t.ie = true ∧ t.epc = s.epc ∧
    OnlyExceptionState s t :=
  ⟨_, rfl, rfl, State.returnFromException_ie s, rfl, returnFromException_frame s⟩

/-- Settles O34. -/
theorem exceptionReturn : Obligations.ExceptionReturn := fun s => ⟨rfl, exec_eret s⟩

/-- Settles O35. -/
theorem breakAndSyscallTrap : Obligations.BreakAndSyscallTrap := fun s =>
  ⟨rfl, rfl, ⟨_, rfl, takeException_entry s .breakpoint false (s.pc + 4#32)⟩,
    ⟨_, rfl, takeException_entry s .syscall false (s.pc + 4#32)⟩⟩

/-- What entry and return keep, they keep one after the other. -/
theorem OnlyExceptionState.trans_program {s t u : State} (entry : OnlyExceptionState s t) (ret : OnlyExceptionState t u) :
    SameGprs s u ∧ SameHiLo s u ∧ SameMemory s u ∧ u.im = s.im ∧ u.ip = s.ip ∧ u.cfg = s.cfg :=
  ⟨fun r => (ret.gprs r).trans (entry.gprs r), ⟨ret.hilo.1.trans entry.hilo.1, ret.hilo.2.trans entry.hilo.2⟩,
    ⟨fun a => (ret.memory.1 a).trans (entry.memory.1 a), ret.memory.2.trans entry.memory.2⟩, ret.im.trans entry.im,
    ret.ip.trans entry.ip, ret.inputs.2.2.trans entry.inputs.2.2⟩

/-- Settles O36. -/
theorem trapThenReturnResumesAfterIt : Obligations.TrapThenReturnResumesAfterIt := by
  intro i s trap
  obtain ⟨t, code, answers, entry⟩ : ∃ t code, exec i s = .next t ∧ ExceptionEntry s t code false (s.pc + 4#32) := by
    obtain rfl | rfl := trap
    · exact ⟨_, _, rfl, takeException_entry s .syscall false (s.pc + 4#32)⟩
    · exact ⟨_, _, rfl, takeException_entry s .breakpoint false (s.pc + 4#32)⟩
  obtain ⟨u, returns, pc, ie, -, frame⟩ := exec_eret t
  obtain ⟨gprs, hilo, memory, im, ip, -⟩ := entry.frame.trans_program frame
  exact ⟨t, u, answers, returns, pc.trans entry.epc, ie, im, ip, gprs, hilo, memory⟩

/-- Settles O37: the entry and the return keep the operands, so the second add overflows as the first. -/
theorem overflowThenReturnOverflowsAgain : Obligations.OverflowThenReturnOverflowsAgain := by
  intro rd rs rt s out
  obtain ⟨t, overflows, entry⟩ := finishOrOverflow_overflow s rd (toInt_sum33 _ _) out
  obtain ⟨u, returns, pc, -, -, frame⟩ := exec_eret t
  obtain ⟨gprs, -, -, -, -, cfg⟩ := entry.frame.trans_program frame
  rw [← gprs rs, ← gprs rt] at out
  obtain ⟨w, again, entry'⟩ := finishOrOverflow_overflow u rd (toInt_sum33 _ _) out
  exact ⟨t, u, w, overflows, returns, pc.trans entry.epc, gprs, again, by rw [entry'.pc, cfg],
    by rw [entry'.epc, pc, entry.epc]⟩

/-- The value a masked read leaves in its destination. -/
theorem OnlyGprAndPc.readGpr_dest_and {s t : State} {d : Reg} {v a x mask : Word} (frame : OnlyGprAndPc s t d v a)
    (value : v &&& mask = x) : t.readGpr d &&& mask = if d = 0#5 then 0#32 else x := by
  rw [frame.readGpr_dest]
  split_ifs
  · exact BitVec.zero_and
  · exact value

/-- Settles O38. -/
theorem cp0WritesAreSeenAtOnce : Obligations.Cp0WritesAreSeenAtOnce := by
  intro rt rd sel s
  refine ⟨?_, ?_, ?_, ⟨_, _, rfl, rfl, rfl⟩⟩
  · obtain ⟨v, u, reads, frame, value⟩ :=
      exec_mfc0_status (s.setStatus (mergeBits s.status (s.readGpr rt) (statusMask s.cfg))).advance rd
    exact ⟨_, u, rfl, reads, frame.readGpr_dest_and (value.trans (mergeBits_and_mask _ _ _))⟩
  · obtain ⟨v, u, reads, frame, value⟩ :=
      exec_mfc0_cause (s.setCause (mergeBits s.cause (s.readGpr rt) (causeMask s.cfg))).advance rd
    exact ⟨_, u, rfl, reads, frame.readGpr_dest_and (value.trans (mergeBits_and_mask _ _ _))⟩
  · obtain ⟨u, reads, frame⟩ := exec_mfc0_epc (s.setEpc (s.readGpr rt)).advance rd
    exact ⟨_, u, rfl, reads, frame.readGpr_dest⟩

end Sys2Proof.Machine
end

section
/-! The step, clause by clause (10_state.md R29; 60_exceptions.md R257 to R263, R272). -/

namespace Sys2Proof.Machine

/-! What the fetch looks at, latching requests leaves alone. -/

theorem fetchInstr_latchIrq (s : State) : s.latchIrq.fetchInstr = s.fetchInstr := by
  unfold State.latchIrq; split <;> rfl

section
variable {s : State}

/-- The word at an aligned pc in fetchable memory that no store has touched. -/
theorem memFetch_plain {a : Word} (al : a.toNat % 4 = 0) (plain : AllPlain s .fetch a 4)
    (unstored : ∀ j < 4, a.toNat + j ∉ s.stored) : s.memFetch a = .next (wordAt s.cfg.endian s.mem a.toNat) :=
  memFetch_next.2 ⟨aligned_iff.2 al, plain, unstored, (wordOfBytes_word (aligned_word_no_wrap (aligned_iff.2 al))).symm⟩

theorem fetchInstr_fault {f : Fault} (h : s.memFetch s.pc = .fault f) : s.fetchInstr = .fault f := by
  rw [State.fetchInstr, h, andThen_of_fault]

theorem fetchInstr_undefined {w : Word} (fetched : s.memFetch s.pc = .next w)
    (rejected : ∀ i, decodeWord s.cfg w ≠ .ok i) : s.fetchInstr = .fault .undefinedInstruction := by
  rw [State.fetchInstr, fetched, andThen_of_next]
  split
  · next i decodes => exact absurd decodes (rejected i)
  · rfl

/-- Fetch and decode give an instruction exactly if the word at pc is fetchable, unstored and decodes to it. -/
theorem fetchInstr_next_iff {i : Instr} : s.fetchInstr = .next i ↔
    s.pc.toNat % 4 = 0 ∧ AllPlain s .fetch s.pc 4 ∧ (∀ j < 4, s.pc.toNat + j ∉ s.stored) ∧
      decodeWord s.cfg (wordAt s.cfg.endian s.mem s.pc.toNat) = .ok i := by
  rw [fetchInstr_next]
  constructor
  · rintro ⟨w, fetched, decodes⟩
    obtain ⟨al, plain, unstored, rfl⟩ := memFetch_next.1 fetched
    rw [wordOfBytes_word (aligned_word_no_wrap al)] at decodes
    exact ⟨aligned_iff.1 al, plain, unstored, decodes⟩
  · rintro ⟨al, plain, unstored, decodes⟩
    exact ⟨_, memFetch_plain al plain unstored, decodes⟩

end

/-- Settles O39. -/
theorem stepRunsTheDecodedInstruction : Obligations.StepRunsTheDecodedInstruction := by
  intro s i quiet silent al plain unstored decodes
  rw [step_execute quiet silent, fetchInstr_latchIrq, fetchInstr_next_iff.2 ⟨al, plain, unstored, decodes⟩,
    andThen_of_next]

/-- Settles O42. -/
theorem fetchFaultsInOrder : Obligations.FetchFaultsInOrder := by
  intro s quiet
  have stops : ∀ {f}, s.memFetch s.pc = .fault f → step s = .fault f := fun h =>
    step_fetch_fault quiet (by rw [fetchInstr_latchIrq, fetchInstr_fault h])
  exact ⟨fun mis => stops (memFetch_misaligned (not_aligned_iff.2 mis)),
    fun al unmapped => stops (memFetch_unmapped (aligned_iff.2 al) unmapped),
    fun al plain stored => stops (memFetch_stored (aligned_iff.2 al) plain stored)⟩

/-- Settles O43: a word the decoder takes has a row that admits it (O3). -/
theorem unadmittedWordsAreUndefined : Obligations.UnadmittedWordsAreUndefined := by
  intro s quiet al plain unstored unadmitted
  refine step_fetch_fault quiet ?_
  rw [fetchInstr_latchIrq]
  refine fetchInstr_undefined (memFetch_plain al plain unstored) fun i decodes => ?_
  obtain ⟨r, mem, admits, -⟩ := (decodeWord_ok decodes).row
  exact Bool.false_ne_true ((unadmitted r mem).symm.trans admits)

/-- Settles O40. -/
theorem interruptIsTakenBeforeTheInstruction : Obligations.InterruptIsTakenBeforeTheInstruction := by
  intro s
  have entry := fun e => takeBeforeInstruction_entry s.latchIrq e
  simp only [State.latchIrq_cfg, State.latchIrq_pc] at entry
  refine ⟨fun ie line => ?_, fun h => ?_⟩
  · exact ⟨_, _, step_interrupt ((interruptPending_iff _).2 ⟨ie, line⟩), entry .interrupt⟩
  · have quiet : s.latchIrq.interruptPending = false := by
      rw [← Bool.not_eq_true, interruptPending_iff]
      exact h
    refine ⟨fun silent => step_execute quiet ?_, fun code i timer tick fetched => ?_⟩
    · rw [Option.eq_none_iff_forall_ne_some]
      intro code signal
      obtain ⟨timer, tick⟩ := (timerSignal_iff s code).1 signal
      obtain absent | still := silent
      · simp [absent] at timer
      · exact still tick
    · have signal := (timerSignal_iff s code).2 ⟨timer, tick⟩
      exact ⟨_, _, step_next.2 (.inl ⟨_, .inr ⟨code, i, rfl, quiet, signal, fetched⟩, rfl⟩), entry (.timer code)⟩

theorem transfersControl_iff (i : Instr) : Instr.transfersControl i = true ↔
    i.mnemonic ∈ ["beq", "bne", "blez", "bgtz", "bltz", "bgez", "bgezal", "bltzal", "j", "jal", "jalr", "jr"] := by
  cases i <;> simp [Instr.transfersControl, Instr.mnemonic]

/-- Settles O41. -/
theorem interruptRecordsABranchVictim : Obligations.InterruptRecordsABranchVictim := by
  intro s t e taken step_eq notDevice
  have answered := step_eq.symm.trans (step_next.2 (.inl ⟨e, taken, rfl⟩))
  injection answered with answered
  have br : t.br = s.latchIrq.victimIsBranch := by
    rw [answered]
    exact (takeBeforeInstruction_entry s.latchIrq e).br
  have notRefused : ∀ f, s.latchIrq.fetchInstr ≠ .refused f := fun f refused => by
    rw [fetchInstr_latchIrq] at refused
    obtain ⟨al, mapped, device⟩ := memFetch_refused (fetchInstr_refused refused)
    exact notDevice ⟨aligned_iff.1 al, mapped, device⟩
  rw [br, victimIsBranch_iff notRefused]
  simp only [fetchInstr_latchIrq, fetchInstr_next_iff, transfersControl_iff, and_assoc, exists_and_left]

/-- Settles O44. -/
theorem requestsSetPendingBits : Obligations.RequestsSetPendingBits := by
  intro s l rest lines
  have latched : s.latchIrq = ((s.raiseLines l).setIrq rest).setTicks s.ticks.tail := by
    simp [State.latchIrq, lines]
  rw [latched]
  exact ⟨State.raiseLines_ip s l, State.raiseLines_br s l, State.raiseLines_exc s l, rfl, rfl, rfl, rfl, rfl, rfl,
    fun _ => rfl, ⟨rfl, rfl⟩, fun _ => rfl, rfl⟩

/-- Settles O48. -/
theorem resetState : Obligations.ResetState := by
  refine ⟨fun r => ?_, ?_⟩
  · simp [State.readGpr, State.reset, State.launch]
  · exact ⟨rfl, rfl, rfl, rfl, rfl, rfl, rfl, rfl, rfl, fun _ => rfl, rfl, rfl, rfl, rfl, rfl, rfl, rfl, rfl, rfl, rfl, rfl,
      rfl⟩

end Sys2Proof.Machine
end

section
/-! A word placed at pc from outside, and the step that runs it (70_reset_and_hazards.md R300; log 4). -/

namespace Sys2Proof

/-! What HIST_INSTRS decides (30_encoding.md R83). -/

/-- The first answer is that the word is historical, or it is the second. -/
def HistoricalOr (r r' : Except Reject Instr) : Prop :=
  r = .error .historical ∨ r = r'

theorem HistoricalOr.ite {p : Prop} [Decidable p] {a a' b b' : Except Reject Instr} (ha : HistoricalOr a a')
    (hb : HistoricalOr b b') : HistoricalOr (if p then a else b) (if p then a' else b') := by
  split
  · exact ha
  · exact hb

theorem ifHist_historicalOr {c c' : Config} (admitted : c'.histInstrs = true) (r : Except Reject Instr) :
    HistoricalOr (ifHist c r) (ifHist c' r) := by
  unfold ifHist
  rw [if_pos admitted]
  split
  · exact .inr rfl
  · exact .inl rfl

/-- Admitting the historical instructions changes what is said of their words only. -/
theorem decodeWord_historicalOr (c : Config) (w : Word) :
    HistoricalOr (decodeWord c w) (decodeWord { c with histInstrs := true } w) := by
  have hist := fun r => ifHist_historicalOr (c := c) (c' := { c with histInstrs := true }) rfl r
  unfold decodeWord decodeSpecial decodeRegimm decodeCop0
  repeat' with_reducible refine HistoricalOr.ite ?_ ?_
  any_goals exact hist _
  all_goals exact .inr rfl

/-- A word's four bytes, in the order the machine stores them, decode as the word. -/
theorem decodeBytes_bytesOfWord (c : Config) (v : Word) :
    decodeBytes c (bytesOfWord c.endian 4 v) = (decodeWord c v).map fun i => (i, []) := by
  have four : ∃ b0 b1 b2 b3, bytesOfWord c.endian 4 v = [b0, b1, b2, b3] := by
    cases c.endian <;> exact ⟨_, _, _, _, rfl⟩
  have whole := (Machine.wordOfBytes_bytesOfWord c.endian 4 v).trans (Machine.wordLE_bytesLE_word v)
  obtain ⟨b0, b1, b2, b3, bytes⟩ := four
  rw [bytes] at whole ⊢
  rw [decodeBytes, whole]

/-- The table's decoder is the machine's with the historical instructions admitted. -/
theorem decodeTableWord_eq_toOption (n w : Nat) : decodeTableWord n w =
    (decodeWord { Machine.defaultConfig with histInstrs := true } (BitVec.ofNat 32 (w % 2 ^ n))).toOption := by
  simp only [decodeTableWord, decodeBytes_bytesOfWord]
  cases decodeWord _ (BitVec.ofNat 32 (w % 2 ^ n)) <;> rfl

theorem decodeTableWord_eq_some {n w : Nat} {i : Instr} (h : decodeTableWord n w = some i) :
    decodeWord { Machine.defaultConfig with histInstrs := true } (BitVec.ofNat 32 (w % 2 ^ n)) = .ok i := by
  rw [decodeTableWord_eq_toOption] at h
  cases decodes : decodeWord { Machine.defaultConfig with histInstrs := true } (BitVec.ofNat 32 (w % 2 ^ n)) with
  | error e => rw [decodes] at h; nomatch h
  | ok j => rw [decodes] at h; exact congrArg _ (Option.some.inj h)

namespace Machine

/-- The bytes just written are read back. -/
theorem Memory.readBytes_writeBytes {m : Memory} {ea : Word} {bs : List Byte} (wf : Memory.wf m = true)
    (fits : ea.toNat + bs.length ≤ 2 ^ 32) : Memory.readBytes (Memory.writeBytes m ea bs) ea bs.length = bs :=
  List.ext_getElem (by simp) fun _ hk hk' => by
    rw [Memory.getElem_readBytes fits hk, Memory.read_writeBytes_inside wf fits hk']

/-! What placing a word changes. -/

section
variable (s : State) (w : Word)

@[simp] theorem State.placeWord_pc : (s.placeWord w).pc = s.pc := by unfold State.placeWord; split <;> rfl
@[simp] theorem State.placeWord_status : (s.placeWord w).status = s.status := by unfold State.placeWord; split <;> rfl
@[simp] theorem State.placeWord_irq : (s.placeWord w).irq = s.irq := by unfold State.placeWord; split <;> rfl
@[simp] theorem State.placeWord_ticks : (s.placeWord w).ticks = s.ticks := by unfold State.placeWord; split <;> rfl
@[simp] theorem State.placeWord_endian : (s.placeWord w).cfg.endian = s.cfg.endian := by
  unfold State.placeWord; split <;> rfl
@[simp] theorem State.placeWord_memMap : (s.placeWord w).cfg.memMap = s.cfg.memMap := by
  unfold State.placeWord; split <;> rfl
@[simp] theorem State.placeWord_mem :
    (s.placeWord w).mem = Memory.writeBytes s.mem s.pc (bytesOfWord s.cfg.endian 4 w) := by
  unfold State.placeWord; split <;> rfl
theorem State.placeWord_stored :
    (s.placeWord w).stored = s.stored.filter fun a => !decide (a ∈ accessAddrs s.pc 4) := by
  unfold State.placeWord; split <;> rfl

end

section
variable {s : State} {w : Word}

/-- Where the machine may fetch, the placed word is what it fetches. -/
theorem memFetch_placeWord (wf : Memory.wf s.mem = true) (al : s.pc.toNat % 4 = 0)
    (plain : AllPlain s .fetch s.pc 4) : (s.placeWord w).memFetch s.pc = .next w := by
  have fits : s.pc.toNat + 4 ≤ 2 ^ 32 := aligned_word_no_wrap (aligned_iff.2 al)
  refine memFetch_next.2 ⟨aligned_iff.2 al, ?_, fun j hj stored => ?_, ?_⟩
  · rw [AllPlain, State.placeWord_memMap]; exact plain
  · rw [State.placeWord_stored, List.mem_filter] at stored
    simp [(mem_accessAddrs fits _).2 ⟨j, hj, rfl⟩] at stored
  · have bytes := Memory.readBytes_writeBytes (bs := bytesOfWord s.cfg.endian 4 w) wf (by simpa using fits)
    rw [length_bytesOfWord] at bytes
    rw [State.placeWord_mem, State.placeWord_endian, bytes, wordOfBytes_bytesOfWord, wordLE_bytesLE_word]

/-- Placing a word admits the historical instructions where it needs them. -/
theorem decodeWord_placeWord {i : Instr} (decodes : decodeWord { s.cfg with histInstrs := true } w = .ok i) :
    decodeWord (s.placeWord w).cfg w = .ok i := by
  unfold State.placeWord
  split
  · exact decodes
  · next notHistorical =>
    obtain historical | same := decodeWord_historicalOr s.cfg w
    · exact absurd historical notHistorical
    · exact same.trans decodes

theorem fetchInstr_placeWord {i : Instr} (wf : Memory.wf s.mem = true) (al : s.pc.toNat % 4 = 0)
    (plain : AllPlain s .fetch s.pc 4) (decodes : decodeWord { s.cfg with histInstrs := true } w = .ok i) :
    (s.placeWord w).fetchInstr = .next i := by
  refine fetchInstr_next.2 ⟨w, ?_, decodeWord_placeWord decodes⟩
  rw [State.placeWord_pc]
  exact memFetch_placeWord wf al plain

/-- With no requests and no signals to come, there is nothing to latch. -/
theorem latchIrq_of_idle (irq : s.irq = []) (ticks : s.ticks = []) : s.latchIrq = s := by
  obtain ⟨⟩ := s
  subst irq ticks
  rfl

end

theorem reset_fetch_plain : AllPlain State.reset .fetch State.reset.pc 4 := by
  unfold AllPlain
  decide

theorem interruptPending_of_status_zero {s : State} (status : s.status = 0#32) : s.interruptPending = false := by
  simp [State.interruptPending, State.ie, status]

/-- Settles O45. -/
theorem placedWordIsTheNextInstruction : Obligations.PlacedWordIsTheNextInstruction := by
  intro w i table
  have fetched : (State.reset.withFetchWord 32 w).fetchInstr = .next i :=
    fetchInstr_placeWord rfl rfl reset_fetch_plain (decodeTableWord_eq_some table)
  have idle : (State.reset.withFetchWord 32 w).latchIrq = State.reset.withFetchWord 32 w :=
    latchIrq_of_idle (State.placeWord_irq _ _) (State.placeWord_ticks _ _)
  have quiet : (State.reset.withFetchWord 32 w).interruptPending = false :=
    interruptPending_of_status_zero (State.placeWord_status _ _)
  have silent : (State.reset.withFetchWord 32 w).timerSignal = none := by
    rw [State.timerSignal, State.withFetchWord, State.placeWord_ticks]
    rfl
  rw [step_execute (by rw [idle, quiet]) silent, idle, fetched, andThen_of_next]

end Machine
end Sys2Proof
end

section
/-! HALT ends a run and nothing else depends on it (92_eei_decisions.md D35; log 41). -/

namespace Sys2Proof.Machine

/-! The run up to its end. -/

/-- A run that has made `k` steps comes to `t` after `n` more, and `t` is the first of its states where HALT says that it
ends. -/
structure EndsAfter (k : Nat) (s t : State) (n : Nat) : Prop where
  comes : Sys2Proof.core.run n s = .next t
  ended : t.runEnded (k + n) = true
  first : ∀ m < n, ∀ u, Sys2Proof.core.run m s = .next u → u.runEnded (k + m) = false

theorem endsAfter_zero {k : Nat} {s t : State} : EndsAfter k s t 0 ↔ s = t ∧ s.runEnded k = true := by
  constructor
  · rintro ⟨comes, ended, -⟩
    injection comes with eq
    subst eq
    exact ⟨rfl, ended⟩
  · rintro ⟨rfl, ended⟩
    exact ⟨rfl, ended, fun m hm => absurd hm (Nat.not_lt_zero m)⟩

theorem endsAfter_succ {k n : Nat} {s t : State} : EndsAfter k s t (n + 1) ↔
    s.runEnded k = false ∧ ∃ u, step s = .next u ∧ EndsAfter (k + 1) u t n := by
  constructor
  · rintro ⟨comes, ended, first⟩
    obtain ⟨u, stepped, comes⟩ := run_succ_next.1 comes
    refine ⟨first 0 n.succ_pos s rfl, u, stepped, comes, by rwa [Nat.succ_add_eq_add_succ], fun m hm v hv => ?_⟩
    rw [Nat.succ_add_eq_add_succ]
    exact first (m + 1) (Nat.succ_lt_succ hm) v (run_succ_next.2 ⟨u, stepped, hv⟩)
  · rintro ⟨goes, u, stepped, comes, ended, first⟩
    refine ⟨run_succ_next.2 ⟨u, stepped, comes⟩, by rwa [← Nat.succ_add_eq_add_succ], fun m hm v hv => ?_⟩
    cases m with
    | zero =>
      injection hv with eq
      exact eq ▸ goes
    | succ m =>
      obtain ⟨u', stepped', hv⟩ := run_succ_next.1 hv
      injection stepped.symm.trans stepped' with eq
      subst eq
      rw [← Nat.succ_add_eq_add_succ]
      exact first m (Nat.lt_of_succ_lt_succ hm) v hv

/-- Where HALT says so already, no step follows. -/
theorem EndsAfter.eq_zero {k n : Nat} {s t : State} (ends : EndsAfter k s t n) (now : s.runEnded k = true) : n = 0 := by
  cases n with
  | zero => rfl
  | succ n => exact absurd now (Bool.eq_false_iff.1 (endsAfter_succ.1 ends).1)

theorem runToEnd_eq_some_iff {t : State} (fuel k : Nat) (s : State) :
    runToEnd fuel k s = .next (some t) ↔ ∃ n ≤ fuel, EndsAfter k s t n := by
  induction fuel generalizing k s with
  | zero =>
    simp only [Nat.le_zero, exists_eq_left, endsAfter_zero, runToEnd]
    cases s.runEnded k <;> simp
  | succ fuel ih =>
    cases now : s.runEnded k with
    | true =>
      rw [runToEnd_ended now]
      constructor
      · intro eq
        injection eq with eq
        injection eq with eq
        exact ⟨0, Nat.zero_le _, endsAfter_zero.2 ⟨eq, now⟩⟩
      · rintro ⟨n, -, ends⟩
        obtain rfl := ends.eq_zero now
        rw [(endsAfter_zero.1 ends).1]
    | false =>
      rw [(runToEnd_step now fuel).2, andThen_next]
      constructor
      · rintro ⟨u, stepped, rest⟩
        obtain ⟨n, le, ends⟩ := (ih (k + 1) u).1 rest
        exact ⟨n + 1, Nat.succ_le_succ le, endsAfter_succ.2 ⟨now, u, stepped, ends⟩⟩
      · rintro ⟨n, le, ends⟩
        cases n with
        | zero => exact absurd (endsAfter_zero.1 ends).2 (Bool.eq_false_iff.1 now)
        | succ n =>
          obtain ⟨-, u, stepped, ends⟩ := endsAfter_succ.1 ends
          exact ⟨u, stepped, (ih (k + 1) u).2 ⟨n, Nat.le_of_succ_le_succ le, ends⟩⟩

/-! The instruction that jumps to itself. -/

/-- Taken, a branch by -1 goes to itself. -/
theorem branchTarget_minus_one (s : State) : s.branchTarget 0xFFFF#16 = s.pc := by
  rw [State.branchTarget]
  have back : signedImm 0xFFFF#16 <<< 2 = -4#32 := by decide
  rw [back, BitVec.add_assoc, BitVec.add_right_neg, BitVec.add_zero]

/-- What is fetched at a jump to itself sets pc to pc. -/
theorem exec_of_atSelfLoop {s : State} (loop : s.atSelfLoop = true) :
    ∃ i, s.fetchInstr = .next i ∧ exec i s.latchIrq = .next (s.latchIrq.setPc s.pc) := by
  obtain fetched | ⟨target, fetched, self⟩ := (atSelfLoop_iff s).1 loop
  · refine ⟨_, fetched, ?_⟩
    have goes : s.latchIrq.branchTarget 0xFFFF#16 = s.pc := by rw [branchTarget_minus_one, State.latchIrq_pc]
    change finishBranch _ (s.latchIrq.readGpr 0#5 == s.latchIrq.readGpr 0#5) _ = _
    rw [finishBranch, goes]
    simp
  · refine ⟨_, fetched, ?_⟩
    change Host.Outcome.next (s.latchIrq.setPc (s.latchIrq.jumpTarget target)) = _
    rw [State.jumpTarget, State.latchIrq_pc, ← State.jumpTarget, self]

/-! HALT in the state. -/

/-- The state with another HALT. -/
def State.setHalt (s : State) (h : Option RunEnd) : State :=
  { s with cfg := { s.cfg with halt := h } }

/-- An answer with another HALT in its state. -/
def setHaltIn (h : Option RunEnd) (r : Host.Outcome State Fault Refusal) : Host.Outcome State Fault Refusal :=
  andThen r fun t => .next (t.setHalt h)

section
variable (s : State) (h : Option RunEnd)

theorem State.writeGpr_setHalt (r : Reg) (v : Word) : (s.setHalt h).writeGpr r v = (s.writeGpr r v).setHalt h := by
  unfold State.writeGpr
  split <;> rfl

theorem setHaltIn_ite {p : Prop} [Decidable p] {a a' b b' : Host.Outcome State Fault Refusal} (ha : a' = setHaltIn h a)
    (hb : b' = setHaltIn h b) : (if p then a' else b') = setHaltIn h (if p then a else b) := by
  split
  · exact ha
  · exact hb

theorem andThen_setHaltIn {α : Type} (r : Result α) (f : α → Host.Outcome State Fault Refusal) :
    (andThen r fun a => setHaltIn h (f a)) = setHaltIn h (andThen r f) := by
  cases r <;> rfl

/-! The completions. -/

theorem finishGpr_setHalt (rd : Reg) (v : Word) : finishGpr (s.setHalt h) rd v = setHaltIn h (finishGpr s rd v) := by
  rw [finishGpr, State.writeGpr_setHalt]
  rfl

theorem finishOrOverflow_setHalt (rd : Reg) (r : BitVec 33) :
    finishOrOverflow (s.setHalt h) rd r = setHaltIn h (finishOrOverflow s rd r) :=
  setHaltIn_ite h rfl (finishGpr_setHalt s h rd _)

theorem finishBranchLink_setHalt (cond : Bool) (off : Imm16) :
    finishBranchLink (s.setHalt h) cond off = setHaltIn h (finishBranchLink s cond off) := by
  rw [finishBranchLink, State.writeGpr_setHalt]
  rfl

theorem link_setHalt (rd : Reg) (v target : Word) : Host.Outcome.next (((s.setHalt h).writeGpr rd v).setPc target) =
    setHaltIn h (.next ((s.writeGpr rd v).setPc target)) := by
  rw [State.writeGpr_setHalt]
  rfl

theorem finishLoad_setHalt (w : Width) (ext : Word → Word) (rt : Reg) (off : Imm16) (base : Reg) :
    finishLoad (s.setHalt h) w ext rt off base = setHaltIn h (finishLoad s w ext rt off base) :=
  (congrArg (andThen _) (funext fun _ => finishGpr_setHalt s h rt _)).trans (andThen_setHaltIn h _ _)

theorem State.memWrite_setHalt (w : Width) (ea v : Word) :
    (s.setHalt h).memWrite w ea v = setHaltIn h (s.memWrite w ea v) :=
  setHaltIn_ite h (andThen_setHaltIn h (s.checkMapped .store ea w.bytes) fun _ => .next (s.storeBytes w ea v)) rfl

theorem finishStore_setHalt (w : Width) (rt : Reg) (off : Imm16) (base : Reg) :
    finishStore (s.setHalt h) w rt off base = setHaltIn h (finishStore s w rt off base) := by
  change andThen ((s.setHalt h).memWrite w (s.effAddr base off) (s.readGpr rt)) _ = _
  rw [State.memWrite_setHalt, finishStore]
  cases s.memWrite w (s.effAddr base off) (s.readGpr rt) <;> rfl

/-! The meanings with branches of their own. -/

theorem execMfc0_setHalt (rt rd : Reg) (sel : BitVec 3) :
    execMfc0 rt rd sel (s.setHalt h) = setHaltIn h (execMfc0 rt rd sel s) := by
  unfold execMfc0 State.readCp0
  split_ifs
  · rfl
  · exact finishGpr_setHalt (s.draw 1) h rt _
  · exact finishGpr_setHalt (s.draw 1) h rt _
  · exact finishGpr_setHalt s h rt _
  · rfl

theorem execMtc0_setHalt (rt rd : Reg) (sel : BitVec 3) :
    execMtc0 rt rd sel (s.setHalt h) = setHaltIn h (execMtc0 rt rd sel s) := by
  unfold execMtc0 State.writeCp0
  split_ifs <;> rfl

/-- No instruction's meaning depends on HALT. -/
theorem exec_setHalt : ∀ i, exec i (s.setHalt h) = setHaltIn h (exec i s)
  | .lw .. | .lb .. | .lbu .. | .lh .. | .lhu .. => finishLoad_setHalt s h _ _ _ _ _
  | .sw .. | .sb .. | .sh .. => finishStore_setHalt s h _ _ _ _
  | .addu .. | .subu .. | .slt .. | .sltu .. | .and .. | .or .. | .xor .. | .nor .. => finishGpr_setHalt s h _ _
  | .sll .. | .srl .. | .sra .. | .sllv .. | .srlv .. | .srav .. => finishGpr_setHalt s h _ _
  | .addiu .. | .andi .. | .ori .. | .xori .. | .lui .. | .slti .. | .sltiu .. => finishGpr_setHalt s h _ _
  | .mfhi .. | .mflo .. => finishGpr_setHalt s h _ _
  | .add .. | .sub .. | .addi .. => finishOrOverflow_setHalt s h _ _
  | .div .. => setHaltIn_ite h rfl (setHaltIn_ite h rfl rfl)
  | .divu .. => setHaltIn_ite h rfl rfl
  | .bgezal .. | .bltzal .. => finishBranchLink_setHalt s h _ _
  | .jal .. | .jalr .. => link_setHalt s h _ _ _
  | .mfc0 .. => execMfc0_setHalt s h _ _ _
  | .mtc0 rt rd sel => execMtc0_setHalt s h rt rd sel
  | .mult .. | .multu .. | .beq .. | .bne .. | .blez .. | .bgtz .. | .bltz .. | .bgez .. => rfl
  | .j .. | .jr .. | .mthi .. | .mtlo .. | .eret | .brk | .syscall => rfl

/-! The step. -/

theorem State.latchIrq_setHalt : (s.setHalt h).latchIrq = s.latchIrq.setHalt h := by
  obtain ⟨⟩ := s
  unfold State.latchIrq State.setHalt
  dsimp only
  split <;> rfl

theorem State.fetchInstr_setHalt : (s.setHalt h).fetchInstr = s.fetchInstr := rfl

theorem step_setHalt : step (s.setHalt h) = setHaltIn h (step s) := by
  unfold step
  rw [State.latchIrq_setHalt]
  refine setHaltIn_ite h rfl ?_
  rw [State.fetchInstr_setHalt]
  refine (congrArg (andThen _) (funext fun i => ?_)).trans (andThen_setHaltIn h _ _)
  have same : (s.setHalt h).timerSignal = s.timerSignal := rfl
  rw [same]
  cases s.timerSignal with
  | none => exact exec_setHalt s.latchIrq h i
  | some code => rfl

end

/-- Settles O30. -/
theorem runEndsWhereHaltSays : Obligations.RunEndsWhereHaltSays := by
  refine ⟨fun fuel s t => ?_, fun s k => ?_, fun s loop quiet silent => ?_, step_setHalt⟩
  · rw [runToEnd_eq_some_iff]
    constructor
    · rintro ⟨n, le, comes, ended, first⟩
      simp only [Nat.zero_add] at ended first
      exact ⟨n, le, comes, ended, first⟩
    · rintro ⟨n, le, comes, ended, first⟩
      exact ⟨n, le, comes, by rwa [Nat.zero_add], by simpa only [Nat.zero_add]⟩
  · rw [runEnded_iff, atSelfLoop_iff]
  · obtain ⟨i, fetched, stays⟩ := exec_of_atSelfLoop loop
    refine ⟨_, ?_, setPc_frame s.latchIrq s.pc⟩
    rw [step_execute quiet silent, fetchInstr_latchIrq, fetched, andThen_of_next, stays]

end Sys2Proof.Machine
end

section
/-! Pseudo-instructions: what their expansions do (49_pseudo.md R241 to R244). -/

namespace Sys2Proof.Machine

/-! Frames one after the other. -/

/-- The second of two writes to a register stays. -/
theorem OnlyGprAndPc.overwrite {s t u : State} {d : Reg} {v w a b : Word} (first : OnlyGprAndPc s t d v a)
    (second : OnlyGprAndPc t u d w b) : OnlyGprAndPc s u d w b where
  gprs r := by
    rw [second.gprs, first.gprs]
    by_cases target : r = d ∧ d ≠ 0#5
    · rw [if_pos target, if_pos target]
    · rw [if_neg target, if_neg target, if_neg target]
  pc := second.pc
  hilo := ⟨second.hilo.1.trans first.hilo.1, second.hilo.2.trans first.hilo.2⟩
  cp0 := ⟨second.cp0.1.trans first.cp0.1, second.cp0.2.1.trans first.cp0.2.1, second.cp0.2.2.trans first.cp0.2.2⟩
  memory := ⟨fun a => (second.memory.1 a).trans (first.memory.1 a), second.memory.2.trans first.memory.2⟩
  inputs := ⟨second.inputs.1.trans first.inputs.1, second.inputs.2.1.trans first.inputs.2.1,
    second.inputs.2.2.trans first.inputs.2.2⟩

/-- The value written matters only where the register is not x[0]. -/
theorem OnlyGprAndPc.congr_value {s t : State} {d : Reg} {v w a : Word} (frame : OnlyGprAndPc s t d v a)
    (same : d ≠ 0#5 → v = w) : OnlyGprAndPc s t d w a :=
  { frame with
    gprs := fun r => by
      rw [frame.gprs]
      by_cases target : r = d ∧ d ≠ 0#5
      · rw [if_pos target, if_pos target, same target.2]
      · rw [if_neg target, if_neg target] }

/-! The expansions. -/

theorem execAll_singleton (i : Instr) (s : State) : execAll [i] s = exec i s := by
  rw [execAll]
  cases exec i s <;> rfl

/-- An expansion to one instruction that writes a register and advances. -/
theorem execAll_singleton_frame {i : Instr} {s : State} {d : Reg} {v w : Word} (completes : exec i s = finishGpr s d v)
    (value : v = w) : ∃ t, execAll [i] s = .next t ∧ OnlyGprAndPc s t d w (s.pc + 4#32) := by
  rw [execAll_singleton, completes, value]
  exact finishGpr_frame s d w

/-- The two halves of a word make the word. -/
theorem upperImm_or_zeroImm (v : Word) : upperImm (v.extractLsb' 16 16) ||| zeroImm (v.extractLsb' 0 16) = v :=
  BitVec.eq_of_getLsbD_eq fun k hk => by
    rw [BitVec.getLsbD_or, getLsbD_zeroImm _ hk, upperImm, BitVec.getLsbD_append]
    by_cases low : k < 16
    · simp [low]
    · simp [low, show k - 16 < 16 by omega, show 16 + (k - 16) = k by omega]

/-- The halves of a word put into a register one after the other, as la and li do. -/
theorem execAll_lui_ori (r : Reg) (v : Word) (s : State) :
    ∃ t, execAll [.lui r (v.extractLsb' 16 16), .ori r r (v.extractLsb' 0 16)] s = .next t ∧
      OnlyGprAndPc s t r v (s.pc + 8#32) := by
  obtain ⟨t, upper, frameUpper⟩ := finishGpr_frame s r (upperImm (v.extractLsb' 16 16))
  obtain ⟨u, lower, frameLower⟩ := finishGpr_frame t r (t.readGpr r ||| zeroImm (v.extractLsb' 0 16))
  refine ⟨u, andThen_next.2 ⟨t, upper, (execAll_singleton _ t).trans lower⟩, ?_⟩
  have past : t.pc + 4#32 = s.pc + 8#32 := by rw [frameUpper.pc, BitVec.add_assoc]; rfl
  rw [past] at frameLower
  refine (frameUpper.overwrite frameLower).congr_value fun hr => ?_
  rw [frameUpper.readGpr_dest, if_neg hr, upperImm_or_zeroImm]

/-- li by which half of the constant is zero (R243). -/
theorem execAll_li (r : Reg) (v : Word) (s : State) : ∃ t, execAll (expandPseudo (.li r v)) s = .next t ∧
    OnlyGprAndPc s t r v (s.pc + BitVec.ofNat 32 (4 * (expandPseudo (.li r v)).length)) := by
  have halves := upperImm_or_zeroImm v
  rw [expandPseudo]
  split_ifs with upper lower
  · rw [upper] at halves
    refine execAll_singleton_frame rfl ?_
    rw [State.readGpr_zero]
    exact halves
  · rw [lower] at halves
    exact execAll_singleton_frame rfl (BitVec.or_zero.symm.trans halves)
  · exact execAll_lui_ori r v s

/-- Settles O59. -/
theorem pseudoInstructionsHaveTheirMeaning : Obligations.PseudoInstructionsHaveTheirMeaning := by
  intro r r2 v s
  refine ⟨execAll_lui_ori r v s, execAll_singleton_frame rfl ?_, execAll_li r v s, execAll_singleton_frame rfl ?_⟩
  · rw [State.readGpr_zero, BitVec.zero_add]
  · rw [State.readGpr_zero, BitVec.zero_add]

end Sys2Proof.Machine
end
